-- ==== Sys2Proof/Word.lean ====
section
/-! DEFINITION. The two word types of the block: a byte (00_scope.md R4, `BYTE_W` = 8; 92_eei_decisions.md D1) and the
20-bit canonical transaction word (30_encoding.md R40). No value of the block is signed (R6). -/

namespace Sys2Proof

/-- An 8-bit unsigned value, 0..255 (R4, R6): every register value, the pending byte, every byte moved. -/
abbrev Byte := BitVec 8

/-- The canonical transaction word: one length only, 20 bits (R40). -/
abbrev TxnWord := BitVec 20

end Sys2Proof
end

