-- ==== Sys2Proof/Config.lean ====
section
/-! DEFINITION. The parameters of 00_scope.md R4 that fix a size. The five register values of R4 (`CMD_CONST`, `CTRL_CONST`,
`STATUS_FULL`, `STATUS_EMPTY`, `UNMAPPED_READ`) are named where they are read, in Machine/Operands.lean and
Machine/Flags.lean, each once. `BUF_DEPTH` = 1 is the type of
`State.pending`, and `BYTE_W` = 8 is `Byte`. The block leaves no value open (93_implementation_defined.md), so there is no free value. -/

namespace Sys2Proof

/-- `NREG` (R4): the mapped register indices are 0, 1, 2 and 3. -/
abbrev Config.registerCount : Nat := 4

/-- The least `ADDR_W` (R4, D2). The width itself is open; the model takes an index as a natural number, as R4 allows
(DESIGN CHOICE, safe, log 4). -/
abbrev Config.minAddrWidth : Nat := 2

/-- Indices below this number have a canonical word (R40, R45): the `addr` field is 8 bits wide. -/
abbrev Config.wordIndexBound : Nat := 256

/-- Numbers below this one are canonical transaction words (R40): 2 to the power 20. -/
abbrev Config.wordBound : Nat := 1048576

end Sys2Proof
end

