-- ==== Sys2Proof/Syntax.lean ====
section
/-! DEFINITION. The transactions the block accepts, one constructor for each of the 13 rows of spec/opcode_table.json
(30_encoding.md R43, R46). The block has no instruction set (R1): an "instruction" of this model is one transaction. -/

namespace Sys2Proof

/-- One transaction, split by the register its index selects (R43, R46). -/
inductive Instr where
  /-- RD_DATA, `peek(0)` (R51) -/
  | rdData
  /-- RD_STATUS, `peek(1)` (R52) -/
  | rdStatus
  /-- RD_CMD, `peek(2)` (R54) -/
  | rdCmd
  /-- RD_CTRL, `peek(3)` (R54) -/
  | rdCtrl
  /-- RD_OTHER, `peek(a)` for an unmapped index, 4 and above (R55) -/
  | rdOther (a : Nat)
  /-- WR_DATA, `poke(0, v)` (R58) -/
  | wrData (v : Byte)
  /-- WR_STATUS, `poke(1, v)` (R59) -/
  | wrStatus (v : Byte)
  /-- WR_CMD, `poke(2, v)` (R60) -/
  | wrCmd (v : Byte)
  /-- WR_CTRL, `poke(3, v)` (R61) -/
  | wrCtrl (v : Byte)
  /-- WR_OTHER, `poke(a, v)` for an unmapped index, 4 and above (R62) -/
  | wrOther (a : Nat) (v : Byte)
  /-- RX, `receiveFromDevice(b)` (R49) -/
  | rx (b : Byte)
  /-- SINK_ATTACH, `sink(on)` (R66) -/
  | sinkAttach
  /-- SINK_DETACH, `sink(off)` (R67) -/
  | sinkDetach
  deriving DecidableEq, Repr

end Sys2Proof
end

