-- ==== Sys2Proof/WellFormed.lean ====
section
/-! DEFINITION. Which terms of `Instr` spell a transaction: the index of RD_OTHER and WR_OTHER is unmapped (20_memory.md R24,
41_host_read.md R55, 42_host_write.md R62), and which of those have a canonical word (30_encoding.md R40, R45). -/

namespace Sys2Proof

/-- RD_OTHER and WR_OTHER take an index of 4 or above (R55, R62); every other form takes any operand. -/
def Instr.wf : Instr → Bool
  | .rdOther a => decide (Config.registerCount ≤ a)
  | .wrOther a _ => decide (Config.registerCount ≤ a)
  | _ => true

/-- The index fits the 8-bit `addr` field of the canonical word (R40); indices of 256 and above have no word (R45). -/
def Instr.hasWord : Instr → Bool
  | .rdOther a => decide (a < Config.wordIndexBound)
  | .wrOther a _ => decide (a < Config.wordIndexBound)
  | _ => true

/-- A transaction that is well formed and has a canonical word. -/
def Instr.encodable (i : Instr) : Bool := i.wf && i.hasWord

end Sys2Proof
end

