-- ==== Sys2Proof/Decode.lean ====
section
/-! DEFINITION. The register address decoder (20_memory.md R24), the transaction forms (30_encoding.md R38), the canonical
transaction word and its decoder (R40 to R44), the opcode table as rows of mask and pattern, and the encoder (R46). -/

namespace Sys2Proof

/-! ## The register address decoder -/

/-- What an index selects (R24). -/
inductive Register where
  | data | status | command | control | unmapped
  deriving DecidableEq, Repr

/-- `decode(a)` of R24: full comparison, no aliasing (R25). Reads and writes use this one decoder. -/
def decodeIndex (a : Nat) : Register :=
  if a = 0 then .data
  else if a = 1 then .status
  else if a = 2 then .command
  else if a = 3 then .control
  else .unmapped

/-- The same decoder on an index that is `n` bits wide, comparing all `n` bits (R24, `ADDR_W` = n). -/
def decodeIndexAt (n : Nat) (a : BitVec n) : Register :=
  if a = BitVec.ofNat n 0 then .data
  else if a = BitVec.ofNat n 1 then .status
  else if a = BitVec.ofNat n 2 then .command
  else if a = BitVec.ofNat n 3 then .control
  else .unmapped

/-! ## Transaction forms -/

/-- The transaction forms of R38. -/
inductive Txn where
  | peek (a : Nat)
  | poke (a : Nat) (v : Byte)
  | rx (b : Byte)
  | sinkSet (present : Bool)
  deriving DecidableEq, Repr

/-- The index is one of an `addrW`-bit block (R4, R38); the other forms carry no index. -/
def Txn.fits (addrW : Nat) : Txn → Bool
  | .peek a => decide (a < 2 ^ addrW)
  | .poke a _ => decide (a < 2 ^ addrW)
  | _ => true

/-- The five mnemonics of a read (R43, R46). -/
def peekInstr (a : Nat) : Instr :=
  match decodeIndex a with
  | .data => .rdData
  | .status => .rdStatus
  | .command => .rdCmd
  | .control => .rdCtrl
  | .unmapped => .rdOther a

/-- The five mnemonics of a write (R43, R46). -/
def pokeInstr (a : Nat) (v : Byte) : Instr :=
  match decodeIndex a with
  | .data => .wrData v
  | .status => .wrStatus v
  | .command => .wrCmd v
  | .control => .wrCtrl v
  | .unmapped => .wrOther a v

/-- The mnemonic a transaction decodes to: the address decoder applied to its index (R43, last paragraph). -/
def Txn.toInstr : Txn → Instr
  | .peek a => peekInstr a
  | .poke a v => pokeInstr a v
  | .rx b => .rx b
  | .sinkSet present => if present then .sinkAttach else .sinkDetach

/-- The transaction form a mnemonic stands for (R46). -/
def Instr.toTxn : Instr → Txn
  | .rdData => .peek 0
  | .rdStatus => .peek 1
  | .rdCmd => .peek 2
  | .rdCtrl => .peek 3
  | .rdOther a => .peek a
  | .wrData v => .poke 0 v
  | .wrStatus v => .poke 1 v
  | .wrCmd v => .poke 2 v
  | .wrCtrl v => .poke 3 v
  | .wrOther a v => .poke a v
  | .rx b => .rx b
  | .sinkAttach => .sinkSet true
  | .sinkDetach => .sinkSet false

/-! ## The canonical transaction word -/

/-- `w[19:16]` (R40). -/
def kindField (w : TxnWord) : BitVec 4 := w.extractLsb' 16 4

/-- `w[15:8]` (R40). -/
def addrField (w : TxnWord) : Byte := w.extractLsb' 8 8

/-- `w[7:0]` (R40). -/
def dataField (w : TxnWord) : Byte := w.extractLsb' 0 8

/-- `w = {kind, addr, data}` (R40). -/
def packWord (kind : BitVec 4) (addr data : Byte) : TxnWord := kind ++ addr ++ data

/-- Why a word spells no transaction (R44). -/
inductive Reserved where
  /-- `kind` 0x0 or 0x5 to 0xF -/
  | kind (k : BitVec 4)
  /-- a Peek with `data` not 0 -/
  | peekData
  /-- an Rx with `addr` not 0 -/
  | rxAddr
  /-- a SinkSet with `addr` not 0 -/
  | sinkAddr
  /-- a SinkSet with `data` neither 0x00 nor 0x01 -/
  | sinkData
  /-- a number of more than 20 bits, which is no canonical word at all (R40: one length only; DEDUCED, safe, log 6) -/
  | tooWide
  deriving DecidableEq, Repr

/-- What the decoder answers: a transaction, or `RESERVED` with its reason (R43, R44). -/
inductive Decoded where
  | instr (i : Instr)
  | reserved (why : Reserved)
  deriving DecidableEq, Repr

/-- The transaction read, if there is one. -/
def Decoded.toOption : Decoded → Option Instr
  | .instr i => some i
  | .reserved _ => none

/-- `decodeWord` of R43, total on every 20-bit word; the operands are whole fields, zero-extended (R42). -/
def decodeWord (w : TxnWord) : Decoded :=
  let k := kindField w
  let a := addrField w
  let d := dataField w
  if k = 0x1#4 then
    if d = 0x00#8 then .instr (peekInstr a.toNat) else .reserved .peekData
  else if k = 0x2#4 then .instr (pokeInstr a.toNat d)
  else if k = 0x3#4 then
    if a = 0x00#8 then .instr (.rx d) else .reserved .rxAddr
  else if k = 0x4#4 then
    if a = 0x00#8 then
      if d = 0x01#8 then .instr .sinkAttach
      else if d = 0x00#8 then .instr .sinkDetach
      else .reserved .sinkData
    else .reserved .sinkAddr
  else .reserved (.kind k)

/-- The transaction FORM a word spells, by the `kind` table of R41 and the operand assembly of R42 (`present = w[0]`),
before the address decoder splits it into mnemonics; `none` for the words of R44. -/
def wordTxn (w : TxnWord) : Option Txn :=
  if kindField w = 0x1#4 then
    if dataField w = 0x00#8 then some (.peek (addrField w).toNat) else none
  else if kindField w = 0x2#4 then some (.poke (addrField w).toNat (dataField w))
  else if kindField w = 0x3#4 then
    if addrField w = 0x00#8 then some (.rx (dataField w)) else none
  else if kindField w = 0x4#4 then
    if addrField w = 0x00#8 ∧ (dataField w).toNat ≤ 1 then some (.sinkSet (w.getLsbD 0)) else none
  else none

/-- The decoder on a number: a number of more than 20 bits is no canonical word (R40). -/
def decodeNumber (w : Nat) : Decoded :=
  if w < Config.wordBound then decodeWord (BitVec.ofNat 20 w) else .reserved .tooWide

/-- The transaction the decoder reads from the low `nbits` bits of `w`, every bit above them 0. A canonical word is one
20-bit number (R40) and no byte order is fixed (20_memory.md R28), so it is given to the decoder as it stands. -/
def decodeTableWord (nbits w : Nat) : Option Instr := (decodeNumber (w % 2 ^ nbits)).toOption

/-! ## The opcode table -/

/-- The row's mnemonic in spec/opcode_table.json. -/
def Instr.mnemonic : Instr → String
  | .rdData => "RD_DATA"
  | .rdStatus => "RD_STATUS"
  | .rdCmd => "RD_CMD"
  | .rdCtrl => "RD_CTRL"
  | .rdOther _ => "RD_OTHER"
  | .wrData _ => "WR_DATA"
  | .wrStatus _ => "WR_STATUS"
  | .wrCmd _ => "WR_CMD"
  | .wrCtrl _ => "WR_CTRL"
  | .wrOther _ _ => "WR_OTHER"
  | .rx _ => "RX"
  | .sinkAttach => "SINK_ATTACH"
  | .sinkDetach => "SINK_DETACH"

/-- One row of spec/opcode_table.json: a word is in the row if its masked bits are the pattern and, for the two rows whose
`constraint` says so, its `addr` field is none of 0, 1, 2, 3. -/
structure OpcodeRow where
  mnemonic : String
  pattern : TxnWord
  mask : TxnWord
  unmappedOnly : Bool
  deriving DecidableEq, Repr

/-- A word is in a row. -/
def OpcodeRow.covers (r : OpcodeRow) (w : TxnWord) : Bool :=
  (w &&& r.mask == r.pattern) && (!r.unmappedOnly || decide (Config.registerCount ≤ (addrField w).toNat))

/-- The 13 rows of spec/opcode_table.json, in its order, with its `match` and `mask`. -/
def opcodeTable : List OpcodeRow :=
  [ ⟨"RD_DATA", 0x10000#20, 0xFFFFF#20, false⟩,
    ⟨"RD_STATUS", 0x10100#20, 0xFFFFF#20, false⟩,
    ⟨"RD_CMD", 0x10200#20, 0xFFFFF#20, false⟩,
    ⟨"RD_CTRL", 0x10300#20, 0xFFFFF#20, false⟩,
    ⟨"RD_OTHER", 0x10000#20, 0xF00FF#20, true⟩,
    ⟨"WR_DATA", 0x20000#20, 0xFFF00#20, false⟩,
    ⟨"WR_STATUS", 0x20100#20, 0xFFF00#20, false⟩,
    ⟨"WR_CMD", 0x20200#20, 0xFFF00#20, false⟩,
    ⟨"WR_CTRL", 0x20300#20, 0xFFF00#20, false⟩,
    ⟨"WR_OTHER", 0x20000#20, 0xF0000#20, true⟩,
    ⟨"RX", 0x30000#20, 0xFFF00#20, false⟩,
    ⟨"SINK_ATTACH", 0x40001#20, 0xFFFFF#20, false⟩,
    ⟨"SINK_DETACH", 0x40000#20, 0xFFFFF#20, false⟩ ]

/-- The mnemonics of the rows a word is in, read from the table alone. -/
def tableMnemonics (w : TxnWord) : List String :=
  (opcodeTable.filter (·.covers w)).map (·.mnemonic)

/-! ## The encoder -/

/-- The `kind` of a transaction (R41). -/
def Instr.kindCode : Instr → BitVec 4
  | .rdData | .rdStatus | .rdCmd | .rdCtrl | .rdOther _ => 0x1#4
  | .wrData _ | .wrStatus _ | .wrCmd _ | .wrCtrl _ | .wrOther _ _ => 0x2#4
  | .rx _ => 0x3#4
  | .sinkAttach | .sinkDetach => 0x4#4

/-- The canonical word of a transaction that has one, column two of R46's table. -/
def encode : Instr → TxnWord
  | .rdData => packWord 0x1#4 0x00#8 0x00#8
  | .rdStatus => packWord 0x1#4 0x01#8 0x00#8
  | .rdCmd => packWord 0x1#4 0x02#8 0x00#8
  | .rdCtrl => packWord 0x1#4 0x03#8 0x00#8
  | .rdOther a => packWord 0x1#4 (BitVec.ofNat 8 a) 0x00#8
  | .wrData v => packWord 0x2#4 0x00#8 v
  | .wrStatus v => packWord 0x2#4 0x01#8 v
  | .wrCmd v => packWord 0x2#4 0x02#8 v
  | .wrCtrl v => packWord 0x2#4 0x03#8 v
  | .wrOther a v => packWord 0x2#4 (BitVec.ofNat 8 a) v
  | .rx b => packWord 0x3#4 0x00#8 b
  | .sinkAttach => packWord 0x4#4 0x00#8 0x01#8
  | .sinkDetach => packWord 0x4#4 0x00#8 0x00#8

/-! ## Each constructor's word, written out from R46's table

RD_DATA 0001 0000_0000 0000_0000, and so on: kind, then addr, then data. -/

theorem decode_word_rdData : decodeWord 0b0001_00000000_00000000#20 = .instr .rdData := by decide
theorem decode_word_rdStatus : decodeWord 0b0001_00000001_00000000#20 = .instr .rdStatus := by decide
theorem decode_word_rdCmd : decodeWord 0b0001_00000010_00000000#20 = .instr .rdCmd := by decide
theorem decode_word_rdCtrl : decodeWord 0b0001_00000011_00000000#20 = .instr .rdCtrl := by decide
theorem decode_word_rdOther : decodeWord 0b0001_00000100_00000000#20 = .instr (.rdOther 4) := by decide
theorem decode_word_wrData : decodeWord 0b0010_00000000_01000001#20 = .instr (.wrData 65) := by decide
theorem decode_word_wrStatus : decodeWord 0b0010_00000001_00001011#20 = .instr (.wrStatus 11) := by decide
theorem decode_word_wrCmd : decodeWord 0b0010_00000010_00011111#20 = .instr (.wrCmd 31) := by decide
theorem decode_word_wrCtrl : decodeWord 0b0010_00000011_11111111#20 = .instr (.wrCtrl 255) := by decide
theorem decode_word_wrOther : decodeWord 0b0010_00000100_11111111#20 = .instr (.wrOther 4 255) := by decide
theorem decode_word_rx : decodeWord 0b0011_00000000_01011000#20 = .instr (.rx 88) := by decide
theorem decode_word_sinkAttach : decodeWord 0b0100_00000000_00000001#20 = .instr .sinkAttach := by decide
theorem decode_word_sinkDetach : decodeWord 0b0100_00000000_00000000#20 = .instr .sinkDetach := by decide

end Sys2Proof
end

