-- ==== Sys2Proof/Machine/Request.lean ====
section
/-! DEFINITION. What the agents present to the block (00_scope.md R5; 30_encoding.md R38, R39, R40, R46): a call in the source's
syntax with whole numbers, a canonical word, or one step of the port list. Types only; the boundary that admits or refuses
them is Machine/Boundary.lean. -/

namespace Sys2Proof.Machine

/-- The four agents of R5. -/
inductive Agent where
  | host | deviceDriver | deviceSink | environment
  deriving DecidableEq, Repr

/-- A call as an agent writes it (R46), its operands plain whole numbers: the source says all values are "accepted" but types
them as bytes, and what is no byte or no index is refused at the boundary (60_exceptions.md R71; safe, log 7). -/
inductive Call where
  | peek (address : Int)
  | poke (address value : Int)
  | receiveFromDevice (character : Int)
  | sink (on : Bool)
  deriving DecidableEq, Repr

/-- The input ports of R39 in one step. `hAddr` is `ADDR_W` bits wide, a natural number here (log 4). -/
structure PortIn where
  hRd : Bool
  hWr : Bool
  hAddr : Nat
  hWdata : Byte
  rxValid : Bool
  rxData : Byte
  sinkSet : Bool
  sinkPresent : Bool
  deriving DecidableEq, Repr

/-- One entry of the environment's total order (20_memory.md R33). A request names no agent: its form says whose it is (R38,
60_exceptions.md R76; DEDUCED, safe, log 5). -/
inductive Request where
  /-- a call (R46) -/
  | call (c : Call)
  /-- a canonical transaction word (R40), as a number -/
  | word (w : Nat)
  /-- one step of the port list (R39) -/
  | ports (p : PortIn)
  deriving DecidableEq, Repr

end Sys2Proof.Machine
end

