-- ==== Sys2Proof/Machine/State.lean ====
section
/-! DEFINITION. The state of the block (10_state.md R10 to R14, R22), the outcomes' reason types, and the state after
construction, the only reset there is (70_reset_and_hazards.md R81, R82). -/

namespace Sys2Proof.Machine

/-- An event of the outbound trace (00_scope.md R6, 10_state.md R14). -/
inductive Event where
  /-- the registered sink received the byte -/
  | tx (v : Byte)
  /-- the byte was discarded, no sink being registered; it stands for the diagnostic log, without text (D17, log 12) -/
  | drop (v : Byte)
  deriving DecidableEq, Repr

/-- The state: `pending`, `sink` and `trace` are the spec's `S.pending`, `S.sink` and `T` ("Nothing else is state", R10).
`returned` and `requests` are the model's own: what the host has received, and what the agents present next. -/
structure State where
  /-- the inbound buffer; `none` is Empty, `some b` is Full, `some 0` included (R11, R12) -/
  pending : Option Byte
  /-- a device sink is registered (R13) -/
  sink : Bool
  /-- the outbound event trace, oldest event first (R14) -/
  trace : List Event
  /-- the bytes returned to the host, oldest first (R6, D7; DESIGN CHOICE, safe, log 2) -/
  returned : List Byte
  /-- what the agents present, in the order the environment chose, the next one first (20_memory.md R33; DESIGN CHOICE, safe,
  log 1) -/
  requests : List Request
  deriving DecidableEq, Repr

/-- Construction (R22, R81). The two last fields are the model's own: nothing returned, nothing presented (log 1, log 2). -/
def State.reset : State :=
  { pending := none, sink := false, trace := [], returned := [], requests := [] }

/-- "There is no distinguished error taxonomy: every defined operation always succeeds" (60_exceptions.md R70): the block has no
fault, so this type has no constructor and nobody raises one. -/
inductive Fault where
  deriving DecidableEq, Repr

/-- Why a step has no meaning. All but the first are raised at the boundary (Machine/Boundary.lean), before any transaction
reaches the block; the block itself rejects nothing (30_encoding.md R44, 60_exceptions.md R70). -/
inductive Refusal where
  /-- raised by exec for a transaction that has no meaning yet; no arm raises it now. Safe. -/
  | notModelled (mnemonic : String)
  /-- raised for a canonical word that spells no transaction (30_encoding.md R44, D10). Safe. -/
  | reservedWord (why : Reserved)
  /-- raised for a data value outside 0..255 (60_exceptions.md R71, D1). Safe. -/
  | notAByte (value : Int)
  /-- raised for an index that is no unsigned integer (60_exceptions.md R71, D2). Safe. -/
  | notAnIndex (value : Int)
  /-- raised for a step of the port list with two or more requests asserted (30_encoding.md R39, 60_exceptions.md R71, D4). Safe. -/
  | simultaneousRequests
  deriving DecidableEq, Repr

/-- What the boundary answers for one request: nothing is asked of the block, a transaction to carry out, or a refusal. -/
inductive Admission where
  | idle
  | run (i : Instr)
  | refuse (why : Refusal)
  deriving DecidableEq, Repr

end Sys2Proof.Machine
end

