-- ==== Sys2Proof/Machine/Flags.lean ====
section
/-! DEFINITION. The one flag of the block and the status mux (10_state.md R16, 41_host_read.md R53). -/

namespace Sys2Proof.Machine

/-- `DAV`, "data available": 1 when the buffer is Full, a pending byte 0 included (R16, D5; unsafe if the reference code
differs, log 9). -/
def dataAvailable (s : State) : Bool := s.pending.isSome

/-- The status mux of R53: bit 3 is `DAV`, bits 7:4 and 2:0 are hardwired 0 (R16). Its two values are R4's `STATUS_FULL` and
`STATUS_EMPTY`. -/
def status (s : State) : Byte := 0b0000#4 ++ BitVec.ofBool (dataAvailable s) ++ 0b000#3

/-- `STATUS_FULL` of R4 (UNVERIFIED against the reference code, unsafe, log 10). -/
def statusFull : Byte := 0x08#8

/-- `STATUS_EMPTY` of R4. -/
def statusEmpty : Byte := 0x00#8

end Sys2Proof.Machine
end

