-- ==== Sys2Proof/Machine/Operands.lean ====
section
/-! DEFINITION. What a register reads as: the host's read mux (10_state.md R15 to R18; 41_host_read.md R51 to R55). A written
operand is a whole byte (30_encoding.md R42, R48), so it needs no operand form. -/

namespace Sys2Proof.Machine

/-- `CMD_CONST` of 00_scope.md R4: the Command register, hardwired (R17; UNVERIFIED against the reference code, unsafe, log 10). -/
def cmdConst : Byte := 0x0B#8

/-- `CTRL_CONST` of 00_scope.md R4: the Control register, hardwired (R18; UNVERIFIED, unsafe, log 10). -/
def ctrlConst : Byte := 0x1C#8

/-- `UNMAPPED_READ` of 00_scope.md R4: what an index of 4 and above reads as (20_memory.md R26). -/
def unmappedRead : Byte := 0x00#8

/-- `getD(S.pending, 0)`: the Data register's read value (R15, R51). -/
def dataValue (s : State) : Byte := s.pending.getD 0x00#8

/-- The value a host read of a register returns. -/
def readValue (r : Register) (s : State) : Byte :=
  match r with
  | .data => dataValue s
  | .status => status s
  | .command => cmdConst
  | .control => ctrlConst
  | .unmapped => unmappedRead

end Sys2Proof.Machine
end

