-- ==== Sys2Proof/Machine/Ops.lean ====
section
/-! DEFINITION. The named operations over the state, and the block's behaviour on each transaction form of 30_encoding.md R38.
The block takes no exception and returns from none (60_exceptions.md R70, R74, R75), so there is no operation for either. -/

namespace Sys2Proof.Machine

/-! ## Updates of one field -/

/-- `S.pending <- p`. -/
def State.setPending (s : State) (p : Option Byte) : State := { s with pending := p }

/-- `S.sink <- b`. -/
def State.setSink (s : State) (b : Bool) : State := { s with sink := b }

/-- `emit E`: the trace is only appended to (10_state.md R14). -/
def State.emit (s : State) (e : Event) : State := { s with trace := s.trace ++ [e] }

/-- `return v` to the host (00_scope.md R6). -/
def State.returnByte (s : State) (v : Byte) : State := { s with returned := s.returned ++ [v] }

/-- The requests still to come are `rs`. -/
def State.setRequests (s : State) (rs : List Request) : State := { s with requests := rs }

/-! ## The two directions of the register file -/

/-- The side effect of a read: a read of Data empties the buffer, no other read has one (20_memory.md R30). -/
def readEffect (r : Register) (s : State) : State :=
  match r with
  | .data => s.setPending none
  | .status => s
  | .command => s
  | .control => s
  | .unmapped => s

/-- A host read: the register's value before the read goes to the host, and the read's side effect happens, in one
indivisible step (20_memory.md R32; 41_host_read.md R51 to R55). -/
def hostRead (r : Register) (s : State) : State := readEffect r (s.returnByte (readValue r s))

/-- The event a byte written to Data becomes (43_device_outbound.md R64). -/
def outboundEvent (sink : Bool) (v : Byte) : Event := if sink then .tx v else .drop v

/-- `sendToDevice(v)`, the outbound action of WR_DATA and of nothing else (43_device_outbound.md R64). -/
def sendToDevice (v : Byte) (s : State) : State := s.emit (outboundEvent s.sink v)

/-- A host write: Data sends, every other register ignores the byte (42_host_write.md R58 to R62). -/
def hostWrite (r : Register) (v : Byte) (s : State) : State :=
  match r with
  | .data => sendToDevice v s
  | .status => s
  | .command => s
  | .control => s
  | .unmapped => s

/-- `receiveFromDevice(b)`: the byte overwrites the buffer unconditionally (40_device_inbound.md R49). -/
def receiveFromDevice (b : Byte) (s : State) : State := s.setPending (some b)

/-- Registration of a sink, or its removal (43_device_outbound.md R66, R67). -/
def setRegistration (present : Bool) (s : State) : State := s.setSink present

/-! ## The transaction forms -/

/-- The block on a transaction of 30_encoding.md R38, before any split into mnemonics: the index goes through the one address
decoder for reads and writes (20_memory.md R24). -/
def applyTxn (t : Txn) (s : State) : State :=
  match t with
  | .peek a => hostRead (decodeIndex a) s
  | .poke a v => hostWrite (decodeIndex a) v s
  | .rx b => receiveFromDevice b s
  | .sinkSet present => setRegistration present s

/-- Transactions in their serialized order, each on the state the one before it left (20_memory.md R33). -/
def applyTxns : List Txn → State → State
  | [], s => s
  | t :: ts, s => applyTxns ts (applyTxn t s)

/-! ## Whose transaction it is -/

/-- The agent that issues a form (30_encoding.md R38; 60_exceptions.md R76). The sink issues nothing (00_scope.md R5). -/
def txnIssuer : Txn → Agent
  | .peek _ => .host
  | .poke _ _ => .host
  | .rx _ => .deviceDriver
  | .sinkSet _ => .environment

/-- The agent that issues a transaction. -/
def instrIssuer (i : Instr) : Agent := txnIssuer i.toTxn

end Sys2Proof.Machine
end

