-- ==== Sys2Proof/Machine/Boundary.lean ====
section
/-! DEFINITION. The boundary between the agents and the block: which requests are transactions, which are refused, and the
fetch of the next one (30_encoding.md R38 to R45; 60_exceptions.md R71; 70_reset_and_hazards.md R93). -/

namespace Sys2Proof.Machine

/-- A whole number as a byte, when it is one (R71, D1). -/
def byteOf (v : Int) : Option Byte := if 0 ≤ v ∧ v ≤ 255 then some (BitVec.ofNat 8 v.toNat) else none

/-- A whole number as an index, when it is one: unsigned, of any size (R4, D2, log 4). -/
def indexOf (a : Int) : Option Nat := if 0 ≤ a then some a.toNat else none

/-- A transaction form is carried out as the mnemonic it decodes to (R43). -/
def admitTxn (t : Txn) : Admission := .run t.toInstr

/-- A call is admitted if its operands are what R38 types them as; the index is checked first (DESIGN CHOICE,
safe, log 7). -/
def admitCall (c : Call) : Admission :=
  match c with
  | .peek a =>
    match indexOf a with
    | some n => admitTxn (.peek n)
    | none => .refuse (.notAnIndex a)
  | .poke a v =>
    match indexOf a, byteOf v with
    | some n, some b => admitTxn (.poke n b)
    | none, _ => .refuse (.notAnIndex a)
    | some _, none => .refuse (.notAByte v)
  | .receiveFromDevice ch =>
    match byteOf ch with
    | some b => admitTxn (.rx b)
    | none => .refuse (.notAByte ch)
  | .sink on => admitTxn (.sinkSet on)

/-- A canonical word: a reserved word is refused (R44). -/
def admitWord (w : Nat) : Admission :=
  match decodeNumber w with
  | .instr i => .run i
  | .reserved why => .refuse (.reservedWord why)

/-- The transactions asserted on the ports in one step (R39). -/
def portRequests (p : PortIn) : List Txn :=
  (if p.hRd then [.peek p.hAddr] else []) ++ (if p.hWr then [.poke p.hAddr p.hWdata] else [])
    ++ (if p.rxValid then [.rx p.rxData] else []) ++ (if p.sinkSet then [.sinkSet p.sinkPresent] else [])

/-- At most one request is asserted in a step; a step with two is not admitted (R39, D4; DEDUCED, safe,
log 8). With none, nothing is asked (log 3). -/
def admitPorts (p : PortIn) : Admission :=
  match portRequests p with
  | [] => .idle
  | [t] => admitTxn t
  | _ :: _ :: _ => .refuse .simultaneousRequests

/-- What becomes of one request. -/
def admission (r : Request) : Admission :=
  match r with
  | .call c => admitCall c
  | .word w => admitWord w
  | .ports p => admitPorts p

/-- The next request of the environment's order (20_memory.md R33), and the state with it taken off the list. With no request
left the block does nothing, for it executes no step of its own (00_scope.md R5; DEDUCED, safe, log 3). -/
def fetch (s : State) : Admission × State :=
  match s.requests with
  | [] => (.idle, s)
  | r :: rest => (admission r, s.setRequests rest)

/-- An agent presents a request before those already waiting. -/
def present (r : Request) (s : State) : State := s.setRequests (r :: s.requests)

end Sys2Proof.Machine
end

