-- ==== Sys2Proof/Machine/HostRead.lean ====
section
/-! DEFINITION. The host reads, format PEEK of the opcode table (41_host_read.md). None can fail (60_exceptions.md R70). -/

namespace Sys2Proof.Machine

/-- RD_DATA (R51). -/
def execRdData (s : State) : Host.Outcome State Fault Refusal := .next (hostRead .data s)

/-- RD_STATUS (R52, R53). -/
def execRdStatus (s : State) : Host.Outcome State Fault Refusal := .next (hostRead .status s)

/-- RD_CMD (R54). -/
def execRdCmd (s : State) : Host.Outcome State Fault Refusal := .next (hostRead .command s)

/-- RD_CTRL (R54). -/
def execRdCtrl (s : State) : Host.Outcome State Fault Refusal := .next (hostRead .control s)

/-- RD_OTHER (R55): the index goes through the address decoder, so that an ill-formed term (an index below 4, which no
request yields) reads the register that index selects (DESIGN CHOICE, safe, log 13). -/
def execRdOther (a : Nat) (s : State) : Host.Outcome State Fault Refusal := .next (hostRead (decodeIndex a) s)

end Sys2Proof.Machine
end

