-- ==== Sys2Proof/Machine/HostWrite.lean ====
section
/-! DEFINITION. The host writes, format POKE of the opcode table (42_host_write.md). None can fail (60_exceptions.md R70). -/

namespace Sys2Proof.Machine

/-- WR_DATA (R58): `sendToDevice(v)`. -/
def execWrData (v : Byte) (s : State) : Host.Outcome State Fault Refusal := .next (hostWrite .data v s)

/-- WR_STATUS (R59): accepted, no effect, no programmed reset. -/
def execWrStatus (v : Byte) (s : State) : Host.Outcome State Fault Refusal := .next (hostWrite .status v s)

/-- WR_CMD (R60): accepted, no effect. -/
def execWrCmd (v : Byte) (s : State) : Host.Outcome State Fault Refusal := .next (hostWrite .command v s)

/-- WR_CTRL (R61): accepted, no effect. -/
def execWrCtrl (v : Byte) (s : State) : Host.Outcome State Fault Refusal := .next (hostWrite .control v s)

/-- WR_OTHER (R62): accepted, no effect. The index goes through the address decoder, as for RD_OTHER (DESIGN CHOICE, safe,
log 13). -/
def execWrOther (a : Nat) (v : Byte) (s : State) : Host.Outcome State Fault Refusal :=
  .next (hostWrite (decodeIndex a) v s)

end Sys2Proof.Machine
end

