-- ==== Sys2Proof/Machine/Inbound.lean ====
section
/-! DEFINITION. The device inbound path, format RX of the opcode table (40_device_inbound.md). -/

namespace Sys2Proof.Machine

/-- RX (R49): no return value, no failure, no back-pressure (R50). -/
def execRx (b : Byte) (s : State) : Host.Outcome State Fault Refusal := .next (receiveFromDevice b s)

end Sys2Proof.Machine
end

