-- ==== Sys2Proof/Machine/Sink.lean ====
section
/-! DEFINITION. Sink registration, format SINK of the opcode table (43_device_outbound.md). -/

namespace Sys2Proof.Machine

/-- SINK_ATTACH (R66). -/
def execSinkAttach (s : State) : Host.Outcome State Fault Refusal := .next (setRegistration true s)

/-- SINK_DETACH (R67). -/
def execSinkDetach (s : State) : Host.Outcome State Fault Refusal := .next (setRegistration false s)

end Sys2Proof.Machine
end

