-- ==== Sys2Proof/Machine/Dispatch.lean ====
section
/-! DEFINITION. One arm for each row of spec/opcode_table.json. -/

namespace Sys2Proof.Machine

-- The meaning of a transaction.
def exec (i : Instr) (s : State) : Host.Outcome State Fault Refusal :=
  match i with
  | .rdData => Sys2Proof.Machine.execRdData s
  | .rdStatus => Sys2Proof.Machine.execRdStatus s
  | .rdCmd => Sys2Proof.Machine.execRdCmd s
  | .rdCtrl => Sys2Proof.Machine.execRdCtrl s
  | .rdOther a => Sys2Proof.Machine.execRdOther a s
  | .wrData v => Sys2Proof.Machine.execWrData v s
  | .wrStatus v => Sys2Proof.Machine.execWrStatus v s
  | .wrCmd v => Sys2Proof.Machine.execWrCmd v s
  | .wrCtrl v => Sys2Proof.Machine.execWrCtrl v s
  | .wrOther a v => Sys2Proof.Machine.execWrOther a v s
  | .rx b => Sys2Proof.Machine.execRx b s
  | .sinkAttach => Sys2Proof.Machine.execSinkAttach s
  | .sinkDetach => Sys2Proof.Machine.execSinkDetach s

end Sys2Proof.Machine
end

