-- ==== Sys2Proof/Machine/Step.lean ====
section
/-! DEFINITION. One step: the next request is taken and carried out, complete when the step ends (20_memory.md R32, R33). -/

namespace Sys2Proof.Machine

/-- One step of the machine. A refused request leaves no next state ("no meaning and no step", 30_encoding.md R44). -/
def step (s : State) : Host.Outcome State Fault Refusal :=
  match fetch s with
  | (.idle, t) => .next t
  | (.run i, t) => exec i t
  | (.refuse why, _) => .refused why

/-- `s` with the transaction word made of the low `nbits` bits of `w` presented as the very next request; it stands for an
agent's presenting it, the only way a transaction reaches the block (00_scope.md R5, log 15). -/
def State.withFetchWord (s : State) (nbits w : Nat) : State := present (.word (w % 2 ^ nbits)) s

end Sys2Proof.Machine
end

