-- ==== Sys2Proof/Machine/Ports.lean ====
section
/-! DEFINITION. A hardware rendering of the block on the port list of 30_encoding.md R39: the output ports and the next state as
functions of the input ports and the state, each port and each field by its own mux, with no decoding into transactions.
It is a second view of the block; that it agrees with `step` is an obligation, for the steps the spec admits. What it gives for a
step with two or more requests asserted is don't-care (DESIGN CHOICE, safe, log 17). -/

namespace Sys2Proof.Machine

/-- The output ports of R39. A data port is `none` while its request or valid line is low, for R39 gives it no value then
(DESIGN CHOICE, safe, log 14). `irq` is the pin of 60_exceptions.md R72, which a rendering may have. -/
structure PortOut where
  hRdata : Option Byte
  txValid : Bool
  txData : Option Byte
  dropValid : Bool
  dropData : Option Byte
  irq : Bool
  deriving DecidableEq, Repr

/-- The read data mux on the index (10_state.md R15 to R18, 20_memory.md R26). -/
def portReadMux (addr : Nat) (s : State) : Byte :=
  if addr = 0 then (match s.pending with | some b => b | none => 0)
  else if addr = 1 then (if s.pending = none then statusEmpty else statusFull)
  else if addr = 2 then cmdConst
  else if addr = 3 then ctrlConst
  else unmappedRead

/-- The host reads Data in this step. -/
def portReadsData (p : PortIn) : Bool := p.hRd && p.hAddr == 0

/-- The host writes Data in this step. -/
def portWritesData (p : PortIn) : Bool := p.hWr && p.hAddr == 0

/-- The output ports in a step. DON'T-CARE with two or more requests asserted: such a step is no admitted input (R39, R71, R93,
D4) and `step` refuses it; that each port is still driven by its own mux then is this rendering's choice alone (DESIGN CHOICE,
safe, log 17). -/
def portOut (p : PortIn) (s : State) : PortOut :=
  { hRdata := if p.hRd then some (portReadMux p.hAddr s) else none
    txValid := portWritesData p && s.sink
    txData := if portWritesData p && s.sink then some p.hWdata else none
    dropValid := portWritesData p && !s.sink
    dropData := if portWritesData p && !s.sink then some p.hWdata else none
    irq := false }

/-- The events the output ports show in a step (R39, last four rows). -/
def PortOut.events (o : PortOut) : List Event :=
  (o.txData.map Event.tx).toList ++ (o.dropData.map Event.drop).toList

/-- The registers after a step, and the two records extended by what the output ports showed. DON'T-CARE with two or more
requests asserted, for which the spec gives no semantics (R71, R93, D4) and `step` has no next state: that an inbound byte then
wins over a read's clearing, that `h_rd` and `h_wr` are both served, and every other value here is this rendering's choice alone
(DESIGN CHOICE, safe, log 17). -/
def portNext (p : PortIn) (s : State) : State :=
  { pending := if p.rxValid then some p.rxData else if portReadsData p then none else s.pending
    sink := if p.sinkSet then p.sinkPresent else s.sink
    trace := s.trace ++ (portOut p s).events
    returned := s.returned ++ (portOut p s).hRdata.toList
    requests := s.requests }

end Sys2Proof.Machine
end

