-- ==== Sys2Proof/Machine/Script.lean ====
section
/-! DEFINITION. Transaction scripts: the call syntax of 30_encoding.md R46 as text, and the pseudo-transactions of R47 with the
host's polling loop. Host control flow is no behaviour of the block (R47, D22); it is here because the scripts of
95_test_vectors.md are written in it. -/

namespace Sys2Proof.Machine

/-- A transaction as a script writes it (R46). -/
def renderTxn : Txn → String
  | .peek a => "peek(" ++ toString a ++ ")"
  | .poke a v => "poke(" ++ toString a ++ ", " ++ toString v.toNat ++ ")"
  | .rx b => "receiveFromDevice(" ++ toString b.toNat ++ ")"
  | .sinkSet present => if present then "sink(on)" else "sink(off)"

/-- The pseudo-transactions of R47. -/
inductive Pseudo where
  | putc (v : Byte)
  | poll
  | getc
  | trygetc
  deriving DecidableEq, Repr

/-- The host's own transactions in a pseudo-transaction. `waits` is how many Status reads of the loop do not return 8; one that
does follows them and ends it (R47: repeat until `s = 8`), so there is always at least one, and on a Full buffer exactly one. How
many waits a run has is decided by `pollLoop` and the device driver, not here (R47; DESIGN CHOICE, safe, log 16). -/
def Pseudo.expand (waits : Nat) : Pseudo → List Txn
  | .putc v => [.poke 0 v]
  | .poll => List.replicate (waits + 1) (.peek 1)
  | .getc => List.replicate (waits + 1) (.peek 1) ++ [.peek 0]
  | .trygetc => [.peek 0]

/-- The host's loop `poll` (R47): read Status, leave the loop if the byte returned is 8, else the other agents' next
transactions are serialized and the host reads again. `none` when the schedule ends before the loop does (R94; DESIGN CHOICE, safe, log 16). -/
def pollLoop : List (List Txn) → State → Option State
  | others, s =>
    let t := applyTxn (.peek 1) s
    if t.returned.getLast? = some statusFull then some t
    else match others with
      | [] => none
      | now :: later => pollLoop later (applyTxns now t)

end Sys2Proof.Machine
end

