-- ==== Sys2Proof/Safety.lean ====
section
/-! DEFINITION. The terms in which claims about the block are stated: Empty and Full (10_state.md R12), runs of transactions,
admitted requests (60_exceptions.md R71), records that only grow (10_state.md R14), and interleavings (20_memory.md R33). -/

namespace Sys2Proof.Machine

/-- `Empty` (R12). -/
def State.isEmpty (s : State) : Bool := s.pending.isNone

/-- `Full` (R12), a pending byte 0 included (D5). -/
def State.isFull (s : State) : Bool := s.pending.isSome

/-- Transactions carried out by `exec` in their serialized order (R33), stopping where one does not answer a next state. -/
def execAll : List Instr → State → Host.Outcome State Fault Refusal
  | [], s => .next s
  | i :: is, s =>
    match exec i s with
    | .next t => execAll is t
    | .fault why => .fault why
    | .refused why => .refused why

/-- The boundary does not refuse the request. -/
def requestAdmitted (r : Request) : Bool :=
  match admission r with
  | .idle => true
  | .run _ => true
  | .refuse _ => false

/-- Every request that waits is admitted: the environment keeps R71 and R93. -/
def State.allAdmitted (s : State) : Bool := s.requests.all requestAdmitted

/-- The two records of `t` extend those of `s`: nothing sent or returned is ever taken back (R14, R6). -/
def recordsExtend (s t : State) : Prop := s.trace <+: t.trace ∧ s.returned <+: t.returned

/-- `zs` is an interleaving of `xs` and `ys`, each kept in its own order (R33). -/
inductive Interleaving {α : Type} : List α → List α → List α → Prop where
  | nil : Interleaving [] [] []
  | left {x : α} {xs ys zs : List α} : Interleaving xs ys zs → Interleaving (x :: xs) ys (x :: zs)
  | right {y : α} {xs ys zs : List α} : Interleaving xs ys zs → Interleaving xs (y :: ys) (y :: zs)

/-- A host read (R38). -/
def isRead (i : Instr) : Bool :=
  match i.toTxn with
  | .peek _ => true
  | _ => false

/-- A host write (R38). -/
def isWrite (i : Instr) : Bool :=
  match i.toTxn with
  | .poke _ _ => true
  | _ => false

/-- A change of the sink's registration (R38). -/
def isRegistration (i : Instr) : Bool :=
  match i.toTxn with
  | .sinkSet _ => true
  | _ => false

/-- The byte a device driver pushes. -/
def rxByte (i : Instr) : Option Byte :=
  match i with
  | .rx b => some b
  | _ => none

/-- The byte a host writes to Data. -/
def dataWriteByte (i : Instr) : Option Byte :=
  match i with
  | .wrData v => some v
  | _ => none

/-- The two transactions that write the inbound buffer (R11). -/
def touchesBuffer (i : Instr) : Bool :=
  match i with
  | .rx _ => true
  | .rdData => true
  | _ => false

/-- How many request lines of the ports are asserted in one step (30_encoding.md R39). -/
def assertedLines (p : PortIn) : Nat := p.hRd.toNat + p.hWr.toNat + p.rxValid.toNat + p.sinkSet.toNat

end Sys2Proof.Machine
end

