-- ==== Sys2Proof/Certificates/Slice0/Obligations.lean ====
section
/-! DEFINITION. The statements about the block that the provers settle. Each docstring names the rule of spec/ it formalises.
Rules that rest on a decision of 92_eei_decisions.md are named with it. -/

open Sys2Proof Sys2Proof.Machine

/-! ## Construction -/

/-- R81: construction leaves the buffer Empty, no sink registered (D6), an empty trace, and Status, Command and Control reading
0x00, 0x0B and 0x1C, as values and as reads answered to the host. -/
def Obligations.ConstructionGivesResetValues : Prop :=
  State.reset.pending = none ∧ State.reset.sink = false ∧ State.reset.trace = [] ∧
  readValue .status State.reset = 0x00#8 ∧ readValue .command State.reset = 0x0B#8 ∧
  readValue .control State.reset = 0x1C#8 ∧
  execAll [.rdStatus, .rdCmd, .rdCtrl] State.reset = .next { State.reset with returned := [0x00#8, 0x0B#8, 0x1C#8] }

/-! ## The address decoder -/

/-- R24: full comparison of the index, at every width of 2 bits and more; reads and writes use the same decoder. -/
def Obligations.AddressDecoderComparesWholeIndex : Prop :=
  (∀ a, decodeIndex a = if a = 0 then .data else if a = 1 then .status else if a = 2 then .command
    else if a = 3 then .control else .unmapped) ∧
  (∀ n, Config.minAddrWidth ≤ n → ∀ a : BitVec n, decodeIndexAt n a = decodeIndex a.toNat) ∧
  (∀ a s, exec (Txn.peek a).toInstr s = .next (hostRead (decodeIndex a) s)) ∧
  (∀ a v s, exec (Txn.poke a v).toInstr s = .next (hostWrite (decodeIndex a) v s))

/-! ## Host reads -/

/-- R51: RD_DATA returns the pending byte or 0, empties the buffer, leaves `DAV` reading 0, changes nothing else, and a second
read returns 0. -/
def Obligations.RdDataReturnsByteAndEmpties : Prop :=
  decodeWord 0x10000#20 = .instr .rdData ∧
  ∀ s, ∃ t, exec .rdData s = .next t ∧
    t.returned = s.returned ++ [match s.pending with | some b => b | none => 0x00#8] ∧
    t.pending = none ∧ t.sink = s.sink ∧ t.trace = s.trace ∧ t.requests = s.requests ∧
    (readValue .status t).getLsbD 3 = false ∧
    exec .rdData t = .next { t with returned := t.returned ++ [0x00#8] }

/-- R53: the Status value is `DAV` in bit 3 and constant 0 in bits 7:4 and 2:0, a function of the buffer's presence alone, 8
if and only if a byte is pending; RD_STATUS returns it. -/
def Obligations.StatusMuxIsPresenceInBitThree : Prop :=
  (∀ s, readValue .status s = if s.pending = none then 0x00#8 else 0x08#8) ∧
  (∀ s, (readValue .status s).getLsbD 3 = s.pending.isSome ∧ (readValue .status s).extractLsb' 4 4 = 0#4 ∧
    (readValue .status s).extractLsb' 0 3 = 0#3) ∧
  (∀ s t, s.pending.isSome = t.pending.isSome → readValue .status s = readValue .status t) ∧
  (∀ s, exec .rdStatus s = .next { s with returned := s.returned ++ [if s.pending = none then 0x00#8 else 0x08#8] })

/-- R52: RD_STATUS writes no state, so any number of reads returns the same value, 8 for a pending byte (a pending 0 included,
D5, log 9) and 0 for none. -/
def Obligations.RepeatedStatusReadsAgree : Prop :=
  decodeWord 0x10100#20 = .instr .rdStatus ∧
  ∀ n s, execAll (List.replicate n .rdStatus) s =
    .next { s with returned := s.returned ++ List.replicate n (if s.pending = none then 0x00#8 else 0x08#8) }

/-- R54: RD_CMD returns 11 and RD_CTRL returns 28 in every state, and after any writes; nothing else changes. -/
def Obligations.CommandAndControlReadConstants : Prop :=
  decodeWord 0x10200#20 = .instr .rdCmd ∧ decodeWord 0x10300#20 = .instr .rdCtrl ∧
  (∀ s, exec .rdCmd s = .next { s with returned := s.returned ++ [11#8] }) ∧
  (∀ s, exec .rdCtrl s = .next { s with returned := s.returned ++ [28#8] }) ∧
  (∀ ws s, (∀ i ∈ ws, isWrite i = true) → ∃ t, execAll ws s = .next t ∧
    exec .rdCmd t = .next { t with returned := s.returned ++ [11#8] } ∧
    exec .rdCtrl t = .next { t with returned := s.returned ++ [28#8] })

/-- R55: RD_OTHER returns 0 for every index of 4 and above and changes nothing; its words are those of the indices 4 to 255. -/
def Obligations.UnmappedReadsReturnZero : Prop :=
  (∀ a s, 4 ≤ a → decodeIndex a = .unmapped ∧
    exec (.rdOther a) s = .next { s with returned := s.returned ++ [0x00#8] }) ∧
  (∀ a, 4 ≤ a → a ≤ 255 → decodeWord (BitVec.ofNat 20 (0x10000 + a * 0x100)) = .instr (.rdOther a)) ∧
  (∀ w a, decodeWord w = .instr (.rdOther a) → 4 ≤ a ∧ a ≤ 255)

/-- R30, R56: a read of any index but 0 may be dropped: whatever runs after it ends with the same buffer, sink and trace, and
returns the same bytes. -/
def Obligations.NonDataReadsMayBeDropped : Prop :=
  ∀ (i : Instr) (js : List Instr) (s t u : State), i.wf = true → isRead i = true → i ≠ .rdData →
    exec i s = .next t → execAll js s = .next u →
    t = { s with returned := t.returned } ∧
    execAll js t = .next { u with returned := t.returned ++ u.returned.drop s.returned.length }

/-! ## Host writes and the outbound path -/

/-- R58: WR_DATA makes exactly one event, `Tx` with a sink and `Drop` without; nothing else changes; `n` writes give `n` events
in write order; a sink registered later does not receive a dropped byte. -/
def Obligations.WrDataForwardsOrDrops : Prop :=
  (∀ v : Byte, decodeWord (BitVec.ofNat 20 (0x20000 + v.toNat)) = .instr (.wrData v)) ∧
  (∀ v s, exec (.wrData v) s = .next { s with trace := s.trace ++ [if s.sink = true then .tx v else .drop v] }) ∧
  (∀ (vs : List Byte) (s : State), execAll (vs.map Instr.wrData) s =
    .next { s with trace := s.trace ++ vs.map (fun v => if s.sink = true then Event.tx v else Event.drop v) }) ∧
  (∀ v s, s.sink = false → execAll [.wrData v, .sinkAttach] s =
    .next { s with sink := true, trace := s.trace ++ [.drop v] })

/-- R59, R60, R61: WR_STATUS, WR_CMD and WR_CTRL are accepted and change nothing at all. -/
def Obligations.StatusCommandControlWritesIgnored : Prop :=
  (∀ v : Byte, decodeWord (BitVec.ofNat 20 (0x20100 + v.toNat)) = .instr (.wrStatus v) ∧
    decodeWord (BitVec.ofNat 20 (0x20200 + v.toNat)) = .instr (.wrCmd v) ∧
    decodeWord (BitVec.ofNat 20 (0x20300 + v.toNat)) = .instr (.wrCtrl v)) ∧
  (∀ v s, exec (.wrStatus v) s = .next s ∧ exec (.wrCmd v) s = .next s ∧ exec (.wrCtrl v) s = .next s)

/-- R62: WR_OTHER is accepted for every index of 4 and above and changes nothing; its words are those of the indices 4 to 255. -/
def Obligations.UnmappedWritesIgnored : Prop :=
  (∀ a v s, 4 ≤ a → decodeIndex a = .unmapped ∧ exec (.wrOther a v) s = .next s) ∧
  (∀ (a : Nat) (v : Byte), 4 ≤ a → a ≤ 255 →
    decodeWord (BitVec.ofNat 20 (0x20000 + a * 0x100 + v.toNat)) = .instr (.wrOther a v)) ∧
  (∀ w a v, decodeWord w = .instr (.wrOther a v) → 4 ≤ a ∧ a ≤ 255)

/-- R14, R64: one event for each WR_DATA and none for any other transaction; what the host and the buffer see does not depend
on the trace (D7). -/
def Obligations.OneEventPerDataWrite : Prop :=
  State.reset.trace = [] ∧
  (∀ i s t, i.wf = true → exec i s = .next t →
    t.trace = s.trace ++ (match i with | .wrData v => [if s.sink = true then .tx v else .drop v] | _ => [])) ∧
  (∀ i s t tr, exec i s = .next t → ∃ u, exec i { s with trace := tr } = .next u ∧
    u.pending = t.pending ∧ u.sink = t.sink ∧ u.returned = t.returned)

/-- R63: no host write changes the buffer, the registration, or any value a later host read returns. -/
def Obligations.WritesLeaveReadValuesAlone : Prop :=
  ∀ (ws : List Instr) (s t : State), (∀ i ∈ ws, isWrite i = true) → execAll ws s = .next t →
    t.pending = s.pending ∧ t.sink = s.sink ∧ t.returned = s.returned ∧
    ∀ r, readValue r t = readValue r s

/-- R85: while no sink is registered every byte written to Data is dropped, in write order, and none is sent. -/
def Obligations.UnregisteredRunOnlyDrops : Prop :=
  ∀ (js : List Instr) (s t : State), (∀ i ∈ js, i.wf = true ∧ i ≠ .sinkAttach) → s.sink = false →
    execAll js s = .next t → t.sink = false ∧ t.trace = s.trace ++ (js.filterMap dataWriteByte).map Event.drop

/-! ## The inbound path -/

/-- R49: RX makes the buffer Full with the byte in every case, overwriting an unread one; nothing else changes; `DAV` reads 1;
the same byte twice is as once. For the byte 0 this is the decision D5 (log 9). -/
def Obligations.RxOverwritesBuffer : Prop :=
  (∀ b : Byte, decodeWord (BitVec.ofNat 20 (0x30000 + b.toNat)) = .instr (.rx b)) ∧
  (∀ b s, ∃ t, exec (.rx b) s = .next t ∧ t.pending = some b ∧ t.sink = s.sink ∧ t.trace = s.trace ∧
    t.returned = s.returned ∧ t.requests = s.requests ∧ (readValue .status t).getLsbD 3 = true ∧
    exec (.rx b) t = .next t) ∧
  (∀ a b s, execAll [.rx a, .rx b] s = execAll [.rx b] s)

/-- R12: exactly two states, Empty and Full, Empty at first, and the table of every transition, for the buffer's contents too.
A received 0 makes the buffer Full (D5, log 9). -/
def Obligations.BufferTransitionTable : Prop :=
  State.reset.isEmpty = true ∧ (∀ s : State, s.isFull = !s.isEmpty) ∧
  (∀ s : State, s.isEmpty = true ↔ s.pending = none) ∧ (∀ s : State, s.isFull = true ↔ ∃ b, s.pending = some b) ∧
  (∀ i s, i.wf = true → ∃ t, exec i s = .next t ∧
    t.pending = (match i with | .rx b => some b | .rdData => none | _ => s.pending))

/-- R11, R12: after any run the buffer holds the byte of the last RX that no RD_DATA followed, and is Empty if an RD_DATA came
last; a run with neither leaves it as it was. -/
def Obligations.BufferHoldsLastUnreadByte : Prop :=
  ∀ (js : List Instr) (s : State), (∀ i ∈ js, i.wf = true) → ∃ t, execAll js s = .next t ∧
    t.pending = (match (js.filter touchesBuffer).getLast? with
      | some (.rx b) => some b
      | some _ => none
      | none => s.pending)

/-- R57, R89: from a Full buffer, a run without RD_DATA leaves it Full, Status reads 8, and the RD_DATA that follows returns the
newest byte pushed meanwhile, or the old one if none was. A pushed 0 counts as a byte (D5, log 9). -/
def Obligations.PollThenReadGetsNewestByte : Prop :=
  ∀ (js : List Instr) (s : State) (b : Byte), s.pending = some b → (∀ i ∈ js, i.wf = true ∧ i ≠ .rdData) →
    ∃ t, execAll js s = .next t ∧ t.isFull = true ∧
      execAll [.rdStatus, .rdData] t =
        .next { t with pending := none, returned := t.returned ++ [0x08#8, (js.filterMap rxByte).getLastD b] }

/-- R88, R20: a read of Data on an Empty buffer and one on a pending 0 return the same byte and leave the same state; only
Status tells them apart (D5, log 9). -/
def Obligations.EmptyAndPendingZeroReadAlike : Prop :=
  ∀ s : State, exec .rdData { s with pending := none } = exec .rdData { s with pending := some 0x00#8 } ∧
    exec .rdData { s with pending := none } = .next { s with pending := none, returned := s.returned ++ [0x00#8] } ∧
    exec .rdStatus { s with pending := none } =
      .next { s with pending := none, returned := s.returned ++ [0x00#8] } ∧
    exec .rdStatus { s with pending := some 0x00#8 } =
      .next { s with pending := some 0x00#8, returned := s.returned ++ [0x08#8] }

/-! ## Sink registration -/

/-- R66: SINK_ATTACH registers a sink and changes nothing else, whether or not one was registered; the environment issues it (D6). -/
def Obligations.SinkAttachRegistersSink : Prop :=
  decodeWord 0x40001#20 = .instr .sinkAttach ∧ instrIssuer .sinkAttach = .environment ∧
  ∀ s, exec .sinkAttach s = .next { s with sink := true }

/-- R67: SINK_DETACH removes the registration and changes nothing else, whether or not there was one; the environment issues it (D6). -/
def Obligations.SinkDetachUnregistersSink : Prop :=
  decodeWord 0x40000#20 = .instr .sinkDetach ∧ instrIssuer .sinkDetach = .environment ∧
  ∀ s, exec .sinkDetach s = .next { s with sink := false }

/-! ## The machine as a whole -/

/-- R70: no transaction, whatever its operands, and no run of transactions raises anything: each answers a next state, and the
requests that wait are left as they are. That the ill-formed terms RD_OTHER and WR_OTHER with an index below 4 complete too is the
model's choice (DESIGN CHOICE, log 13), no rule of the spec. -/
def Obligations.EveryRunOfTransactionsCompletes : Prop :=
  ∀ (js : List Instr) (s : State), ∃ t, execAll js s = .next t ∧ t.requests = s.requests

/-- R43: the split of a transaction form into mnemonics adds no behaviour, and names every form once. -/
def Obligations.MnemonicSplitAddsNoBehaviour : Prop :=
  (∀ (t : Txn) (s : State), exec t.toInstr s = .next (applyTxn t s) ∧ t.toInstr.toTxn = t ∧ t.toInstr.wf = true) ∧
  (∀ i : Instr, i.wf = true → i.toTxn.toInstr = i)

/-- R5, R76: the sink issues nothing; the host never changes the registration and never fills the buffer; the device driver
changes the buffer alone and fills it; the environment changes the registration alone. Whose a transaction is, its form says
(DEDUCED, log 5); the ill-formed terms are read by log 13. -/
def Obligations.AgentsChangeOnlyTheirOwn : Prop :=
  ∀ (i : Instr) (s t : State), exec i s = .next t →
    instrIssuer i ≠ .deviceSink ∧
    (instrIssuer i = .host → t.sink = s.sink ∧ (t.pending = s.pending ∨ t.pending = none)) ∧
    (instrIssuer i = .deviceDriver → t = { s with pending := t.pending } ∧ t.isFull = true) ∧
    (instrIssuer i = .environment → t = { s with sink := t.sink })

/-- R20, R63: deleting every host write and every registration from a run changes neither the buffer nor any byte the host
receives: the sink is not visible to the host, and its writes do not reach its reads. The ill-formed terms are read by log 13. -/
def Obligations.HostReadsIgnoreOutboundSide : Prop :=
  ∀ (js : List Instr) (s t : State), execAll js s = .next t →
    ∃ u, execAll (js.filter fun i => !(isWrite i || isRegistration i)) s = .next u ∧
      u.pending = t.pending ∧ u.returned = t.returned

/-- R63, R68: deleting every host read and every inbound byte from a run changes neither the registration nor the outbound
trace. The ill-formed terms are read by log 13. -/
def Obligations.OutboundTraceIgnoresInboundSide : Prop :=
  ∀ (js : List Instr) (s t : State), execAll js s = .next t →
    ∃ u, execAll (js.filter fun i => isWrite i || isRegistration i) s = .next u ∧
      u.sink = t.sink ∧ u.trace = t.trace

/-- R33, R68: however the host's writes and the device driver's bytes are interleaved, the final state is the same. The
ill-formed terms are read by log 13. -/
def Obligations.WritesAndInboundBytesCommute : Prop :=
  ∀ (ws ds xs ys : List Instr) (s : State), (∀ i ∈ ws, isWrite i = true) →
    (∀ i ∈ ds, instrIssuer i = .deviceDriver) → Interleaving ws ds xs → Interleaving ws ds ys →
    execAll xs s = execAll ys s

/-- R73: an RD_DATA and an RX presented together are taken in one order or the other (D4), each order with its own outcome:
RD_DATA first, the host reads the old contents and the new byte stays pending; RX first, the host reads the new byte and the buffer
ends Empty. There is no third order. -/
def Obligations.SimultaneousReadAndReceiveHaveTwoOutcomes : Prop :=
  ∀ (b : Byte) (s : State),
    execAll [.rdData, .rx b] s =
      .next { s with pending := some b, returned := s.returned ++ [match s.pending with | some a => a | none => 0x00#8] } ∧
    execAll [.rx b, .rdData] s = .next { s with pending := none, returned := s.returned ++ [b] } ∧
    ∀ zs : List Instr, Interleaving [.rdData] [.rx b] zs → zs = [.rdData, .rx b] ∨ zs = [.rx b, .rdData]

/-- R33 with R14 and R6: every step only extends the trace and the record of returned bytes (the record is the model's own field,
log 2; an idle step extends them by nothing, log 3). -/
def Obligations.StepKeepsRecordsGrowing : Prop :=
  ∀ s₀ s t : State, recordsExtend s₀ s → step s = .next t → recordsExtend s₀ t

/-- R70, R71: if every waiting request is admitted, the step answers a next state and every request still waiting is admitted:
no run of admitted requests ever stops. The queue of requests is the model's own (DESIGN CHOICE, log 1), and for an empty queue the
step is the idle one (DEDUCED, log 3). -/
def Obligations.StepKeepsRequestsAdmitted : Prop :=
  ∀ s : State, s.allAdmitted = true → ∃ t, step s = .next t ∧ t.allAdmitted = true ∧ t.requests = s.requests.tail

/-- The invariants hold at construction: no request waits there (the model's own field, DESIGN CHOICE, log 1), and the records
extend themselves. -/
def Obligations.ConstructionIsAdmitted : Prop :=
  State.reset.allAdmitted = true ∧ recordsExtend State.reset State.reset

/-- R43, R33: transaction words presented in an order run as the transactions they encode, in that order. The words wait in the
model's own field `requests` (log 1). -/
def Obligations.PresentedWordsRunInOrder : Prop :=
  ∀ (is : List Instr) (rest : List Request) (s : State), (∀ i ∈ is, i.encodable = true) →
    Host.Core.run Sys2Proof.core is.length (s.setRequests (is.map (fun i => Request.word (encode i).toNat) ++ rest))
      = execAll is (s.setRequests rest)

/-- A step carries out the transaction the next request is, on the state with that request taken off, and adds nothing around
it; withFetchWord presents a word as that request (log 1, log 15). -/
def Obligations.StepRunsDecodedTransaction : Prop :=
  (∀ (w : Nat) (rest : List Request) (s : State) (i : Instr), s.requests = .word w :: rest →
    decodeNumber w = .instr i → step s = exec i (s.setRequests rest)) ∧
  (∀ (t : Txn) (c : Call) (s : State), (∃ n : Nat, c = .peek n ∧ t = .peek n) ∨
      (∃ (n : Nat) (v : Byte), c = .poke n v.toNat ∧ t = .poke n v) ∨
      (∃ b : Byte, c = .receiveFromDevice b.toNat ∧ t = .rx b) ∨ (∃ p, c = .sink p ∧ t = .sinkSet p) →
    step (present (.call c) s) = exec t.toInstr s) ∧
  (∀ (nbits w : Nat) (s : State) (i : Instr), decodeTableWord nbits w = some i →
    step (s.withFetchWord nbits w) = exec i s)

/-- With no request waiting a step changes nothing: the block executes no step of its own (R5; DEDUCED, log 3). -/
def Obligations.NoRequestNoChange : Prop :=
  ∀ s : State, s.requests = [] → step s = .next s

/-- What the boundary lets through is well formed, whichever way it was presented, so every transaction that runs has its
meaning by the rule of its mnemonic (R38, R43). -/
def Obligations.AdmittedTransactionsAreWellFormed : Prop :=
  ∀ (r : Request) (i : Instr), admission r = .run i → i.wf = true ∧ (∀ w, r = .word w → i.hasWord = true)

/-! ## Refusals at the boundary -/

/-- R44: a word spells no transaction exactly when its kind is 0 or 5 to 15, or it is a Peek with data, an Rx with addr, or a
SinkSet with addr or with data above 1; such a word is refused, with no next state (D10). -/
def Obligations.ReservedWordsAreRefused : Prop :=
  (∀ w : TxnWord, (decodeWord w).toOption = none ↔
    ((kindField w).toNat = 0 ∨ 5 ≤ (kindField w).toNat ∨ ((kindField w).toNat = 1 ∧ dataField w ≠ 0) ∨
     ((kindField w).toNat = 3 ∧ addrField w ≠ 0) ∨
     ((kindField w).toNat = 4 ∧ (addrField w ≠ 0 ∨ 2 ≤ (dataField w).toNat)))) ∧
  (∀ (w : TxnWord) (s : State), (decodeWord w).toOption = none →
    ∃ why, step (present (.word w.toNat) s) = .refused (.reservedWord why))

/-- R71: a call with an index that is no unsigned integer, or with a value that is no byte, is refused; every other call runs
(D1, D2; the order of the two checks of a poke is the model's, log 7). -/
def Obligations.CallsOutsideTheirTypesAreRefused : Prop :=
  (∀ (a : Int) (s : State), step (present (.call (.peek a)) s) =
    if a < 0 then .refused (.notAnIndex a) else exec (peekInstr a.toNat) s) ∧
  (∀ (a v : Int) (s : State), step (present (.call (.poke a v)) s) =
    if a < 0 then .refused (.notAnIndex a) else if v < 0 ∨ 255 < v then .refused (.notAByte v)
    else exec (pokeInstr a.toNat (BitVec.ofInt 8 v)) s) ∧
  (∀ (c : Int) (s : State), step (present (.call (.receiveFromDevice c)) s) =
    if c < 0 ∨ 255 < c then .refused (.notAByte c) else exec (.rx (BitVec.ofInt 8 c)) s)

/-- R39: a step of the port list with two or more requests asserted is not admitted (D4); with one it is the transaction
asserted. That it is refused as a whole is log 8 (DEDUCED); that with none nothing changes is log 3 (DEDUCED; R5, R39). -/
def Obligations.PortStepAdmitsOneRequest : Prop :=
  ∀ (p : PortIn) (s : State),
    (2 ≤ assertedLines p → step (present (.ports p) s) = .refused .simultaneousRequests) ∧
    (assertedLines p = 0 → step (present (.ports p) s) = .next s) ∧
    (assertedLines p = 1 → ∃ t, portRequests p = [t] ∧ step (present (.ports p) s) = exec t.toInstr s)

/-- R39, R72: the port-by-port rendering and the step agree on every admitted step: the same next state, read data exactly on a
Peek, `tx_valid` and `drop_valid` exactly on the event of that kind, and a pin `irq` that stays low (D3, D21). That a data output
has no value while its line is low is log 14 (DESIGN CHOICE); that a step with no request changes nothing is log 3 (DEDUCED). Steps
with two requests are outside it, for the rendering is don't-care there (log 17). -/
def Obligations.PortRenderingAgreesWithStep : Prop :=
  ∀ (p : PortIn) (s : State), assertedLines p ≤ 1 →
    ∃ t, step (present (.ports p) s) = .next t ∧ t = portNext p s ∧
      t.returned = s.returned ++ (portOut p s).hRdata.toList ∧
      ((portOut p s).txValid = true ↔ t.trace = s.trace ++ [.tx p.hWdata]) ∧
      ((portOut p s).dropValid = true ↔ t.trace = s.trace ++ [.drop p.hWdata]) ∧
      ((portOut p s).hRdata.isSome = p.hRd) ∧ (portOut p s).irq = false

/-! ## Encoding -/

/-- R40, R43: decoding the word of a well-formed transaction that has one gives it back, with every operand at every value. -/
def Obligations.DecodeOfEncode : Prop :=
  ∀ i : Instr, i.encodable = true → decodeWord (encode i) = .instr i

/-- R40, R43: a word that spells a transaction is that transaction's only word. -/
def Obligations.EncodeOfDecode : Prop :=
  ∀ (w : TxnWord) (i : Instr), decodeWord w = .instr i → i.encodable = true ∧ encode i = w

/-- R40, R46: the word of a transaction as a number, kind * 0x10000 + addr * 0x100 + data, form by form. -/
def Obligations.WordsAreThoseOfTheSyntaxTable : Prop :=
  ∀ i : Instr, i.encodable = true → (encode i).toNat =
    match i with
    | .rdData => 0x10000 | .rdStatus => 0x10100 | .rdCmd => 0x10200 | .rdCtrl => 0x10300
    | .rdOther a => 0x10000 + a * 0x100
    | .wrData v => 0x20000 + v.toNat | .wrStatus v => 0x20100 + v.toNat
    | .wrCmd v => 0x20200 + v.toNat | .wrCtrl v => 0x20300 + v.toNat
    | .wrOther a v => 0x20000 + a * 0x100 + v.toNat
    | .rx b => 0x30000 + b.toNat | .sinkAttach => 0x40001 | .sinkDetach => 0x40000

/-- R43 and spec/opcode_table.json: a word is in exactly the one row of the table whose mnemonic the decoder answers, and in no
row if it is reserved. -/
def Obligations.DecoderAgreesWithOpcodeTable : Prop :=
  ∀ w : TxnWord, tableMnemonics w = ((decodeWord w).toOption.map Instr.mnemonic).toList

/-- R41, R42, R43: decoding a word is reading its form by the kind table and the operand assembly, then splitting it by the
address decoder; the index of a word fits every block of 8 index bits and more. -/
def Obligations.DecodingIsFormThenAddressDecoder : Prop :=
  (∀ w : TxnWord, (decodeWord w).toOption = (wordTxn w).map Txn.toInstr) ∧
  (∀ (w : TxnWord) (t : Txn) (addrW : Nat), 8 ≤ addrW → wordTxn w = some t → t.fits addrW = true)

/-- The words of 95_test_vectors.md section 2.5 decode as listed there. -/
def Obligations.SampleWordsDecodeAsListed : Prop :=
  decodeWord 0x10000#20 = .instr .rdData ∧ decodeWord 0x10300#20 = .instr .rdCtrl ∧
  decodeWord 0x10400#20 = .instr (.rdOther 4) ∧ decodeWord 0x204FF#20 = .instr (.wrOther 4 0xFF#8) ∧
  decodeWord 0x2010B#20 = .instr (.wrStatus 0x0B#8) ∧ decodeWord 0x300FF#20 = .instr (.rx 0xFF#8) ∧
  decodeWord 0x40001#20 = .instr .sinkAttach ∧
  (decodeWord 0x00000#20).toOption = none ∧ (decodeWord 0x10001#20).toOption = none ∧
  (decodeWord 0x30100#20).toOption = none ∧ (decodeWord 0x40002#20).toOption = none ∧
  (decodeWord 0x40100#20).toOption = none ∧ (decodeWord 0x50000#20).toOption = none ∧
  (decodeWord 0xFFFFF#20).toOption = none

/-! ## The host's scripts -/

/-- R94: from an Empty buffer, with nobody reading Data between the polls, the host's polling loop ends within a schedule if
and only if the device driver pushes a byte in it (a pushed 0 included, D5, log 9). The finite schedule, and `none` when it ends first,
are the model's way to bound the loop (DESIGN CHOICE, log 16). -/
def Obligations.PollLoopEndsIffDevicePushes : Prop :=
  ∀ (schedule : List (List Txn)) (s : State), s.isEmpty = true → (∀ now ∈ schedule, Txn.peek 0 ∉ now) →
    ((pollLoop schedule s).isSome = true ↔ ∃ now ∈ schedule, ∃ b : Byte, Txn.rx b ∈ now)

/-- R47: on a Full buffer `poll` ends at its first Status read, whatever the others would do later, and `getc` returns 8 and then
the byte and leaves the buffer Empty; whenever `poll` ends, the last byte returned is 8, a byte is pending, and the read of index 0
that completes `getc` returns it; `trygetc` makes no poll and returns 0 on an Empty buffer; `putc` is one WR_DATA. A pending 0 is
Full and read as 8 (D5, log 9); the finite schedule and `none` at its end are the model's (DESIGN CHOICE, log 16). -/
def Obligations.PseudoTransactionsExpand : Prop :=
  (∀ (schedule : List (List Txn)) (s : State) (b : Byte), s.pending = some b →
    pollLoop schedule s = some { s with returned := s.returned ++ [0x08#8] } ∧
    pollLoop schedule s = some (applyTxns (Pseudo.poll.expand 0) s) ∧
    applyTxns (Pseudo.getc.expand 0) s = { s with pending := none, returned := s.returned ++ [0x08#8, b] }) ∧
  (∀ (schedule : List (List Txn)) (s t : State), pollLoop schedule s = some t →
    t.returned.getLast? = some 0x08#8 ∧ ∃ b, t.pending = some b ∧
      applyTxn (.peek 0) t = { t with pending := none, returned := t.returned ++ [b] }) ∧
  (∀ (waits : Nat) (s : State), s.pending = none →
    applyTxns (Pseudo.trygetc.expand waits) s = { s with returned := s.returned ++ [0x00#8] }) ∧
  (∀ (waits : Nat) (s : State) (v : Byte), applyTxns ((Pseudo.putc v).expand waits) s =
    { s with trace := s.trace ++ [if s.sink = true then .tx v else .drop v] })
end

