-- ==== Sys2Proof/Laws/Decode.lean ====
section
/-! SUPPORT. What the address decoder answers, the fields of a packed word, and well-formedness as a plain condition. -/

namespace Sys2Proof

@[simp] theorem decodeIndex_zero : decodeIndex 0 = .data := rfl
@[simp] theorem decodeIndex_one : decodeIndex 1 = .status := rfl
@[simp] theorem decodeIndex_two : decodeIndex 2 = .command := rfl
@[simp] theorem decodeIndex_three : decodeIndex 3 = .control := rfl

/-- Every index of 4 and above is unmapped (R24). -/
theorem decodeIndex_of_four_le {a : Nat} (h : 4 ≤ a) : decodeIndex a = .unmapped := by
  simp [decodeIndex, show a ≠ 0 by omega, show a ≠ 1 by omega, show a ≠ 2 by omega, show a ≠ 3 by omega]

/-- An index is one of the four, or unmapped (R24). -/
theorem decodeIndex_cases (a : Nat) :
    a = 0 ∨ a = 1 ∨ a = 2 ∨ a = 3 ∨ (4 ≤ a ∧ decodeIndex a = .unmapped) := by
  by_cases h : 4 ≤ a
  · exact .inr (.inr (.inr (.inr ⟨h, decodeIndex_of_four_le h⟩)))
  · omega

@[simp] theorem peekInstr_zero : peekInstr 0 = .rdData := rfl
@[simp] theorem peekInstr_one : peekInstr 1 = .rdStatus := rfl
@[simp] theorem peekInstr_two : peekInstr 2 = .rdCmd := rfl
@[simp] theorem peekInstr_three : peekInstr 3 = .rdCtrl := rfl

theorem peekInstr_of_four_le {a : Nat} (h : 4 ≤ a) : peekInstr a = .rdOther a := by
  simp [peekInstr, decodeIndex_of_four_le h]

@[simp] theorem pokeInstr_zero (v : Byte) : pokeInstr 0 v = .wrData v := rfl
@[simp] theorem pokeInstr_one (v : Byte) : pokeInstr 1 v = .wrStatus v := rfl
@[simp] theorem pokeInstr_two (v : Byte) : pokeInstr 2 v = .wrCmd v := rfl
@[simp] theorem pokeInstr_three (v : Byte) : pokeInstr 3 v = .wrCtrl v := rfl

theorem pokeInstr_of_four_le {a : Nat} (v : Byte) (h : 4 ≤ a) : pokeInstr a v = .wrOther a v := by
  simp [pokeInstr, decodeIndex_of_four_le h]

/-- The fields of a packed word are the ones packed (R40). -/
@[simp] theorem kindField_packWord (k : BitVec 4) (a d : Byte) : kindField (packWord k a d) = k := by
  ext i hi
  simp only [kindField, packWord, BitVec.getElem_extractLsb', BitVec.getLsbD_append]
  simp [show ¬ 16 + i < 8 by omega, show ¬ 16 + i - 8 < 8 by omega, show 16 + i - 8 - 8 = i by omega, hi]

@[simp] theorem addrField_packWord (k : BitVec 4) (a d : Byte) : addrField (packWord k a d) = a := by
  ext i hi
  simp only [addrField, packWord, BitVec.getElem_extractLsb', BitVec.getLsbD_append]
  simp [show ¬ 8 + i < 8 by omega, show 8 + i - 8 = i by omega, hi]

@[simp] theorem dataField_packWord (k : BitVec 4) (a d : Byte) : dataField (packWord k a d) = d := by
  ext i hi
  simp only [dataField, packWord, BitVec.getElem_extractLsb', BitVec.getLsbD_append]
  simp [hi]

/-- A word is its three fields packed (R40). -/
theorem packWord_fields (w : TxnWord) : packWord (kindField w) (addrField w) (dataField w) = w := by
  apply BitVec.eq_of_getLsbD_eq
  intro i hi
  simp only [packWord, kindField, addrField, dataField, BitVec.getLsbD_append, BitVec.getLsbD_extractLsb']
  by_cases h8 : i < 8
  · simp [h8]
  · by_cases h16 : i - 8 < 8
    · simp [h8, h16, show 8 + (i - 8) = i by omega]
    · simp [h8, h16, show 16 + (i - 8 - 8) = i by omega, show i - 8 - 8 < 4 by omega]

/-- Two packed words are equal if their fields are. -/
theorem packWord_inj {k k' : BitVec 4} {a a' d d' : Byte} :
    packWord k a d = packWord k' a' d' ↔ k = k' ∧ a = a' ∧ d = d' := by
  refine ⟨fun h => ⟨?_, ?_, ?_⟩, fun ⟨h₁, h₂, h₃⟩ => by rw [h₁, h₂, h₃]⟩
  · simpa using congrArg kindField h
  · simpa using congrArg addrField h
  · simpa using congrArg dataField h

/-- A mask acts on the three fields apart. -/
theorem packWord_and (k k' : BitVec 4) (a a' d d' : Byte) :
    packWord k a d &&& packWord k' a' d' = packWord (k &&& k') (a &&& a') (d &&& d') := by
  unfold packWord
  exact (BitVec.and_append).trans (by rw [BitVec.and_append])

/-- `w = kind * 0x10000 + addr * 0x100 + data` (R40). -/
theorem packWord_toNat (k : BitVec 4) (a d : Byte) :
    (packWord k a d).toNat = k.toNat * 0x10000 + a.toNat * 0x100 + d.toNat := by
  have ha := a.isLt
  have hd := d.isLt
  simp only [packWord, BitVec.toNat_append]
  rw [← Nat.shiftLeft_add_eq_or_of_lt (by omega), ← Nat.shiftLeft_add_eq_or_of_lt (by omega)]
  simp only [Nat.shiftLeft_eq]
  omega

theorem Instr.wf_rdOther {a : Nat} : (Instr.rdOther a).wf = true ↔ 4 ≤ a := by simp [Instr.wf]

theorem Instr.wf_wrOther {a : Nat} {v : Byte} : (Instr.wrOther a v).wf = true ↔ 4 ≤ a := by simp [Instr.wf]

theorem Instr.encodable_rdOther {a : Nat} : (Instr.rdOther a).encodable = true ↔ 4 ≤ a ∧ a < 256 := by
  simp [Instr.encodable, Instr.wf, Instr.hasWord]

theorem Instr.encodable_wrOther {a : Nat} {v : Byte} : (Instr.wrOther a v).encodable = true ↔ 4 ≤ a ∧ a < 256 := by
  simp [Instr.encodable, Instr.wf, Instr.hasWord]

end Sys2Proof
end

