-- ==== Sys2Proof/Laws/State.lean ====
section
/-! SUPPORT. One lemma for each field and each named update of the state, so that no proof unfolds a record update, and what
the named updates do to one another. -/

namespace Sys2Proof.Machine

@[simp] theorem State.setPending_pending (s : State) (p : Option Byte) : (s.setPending p).pending = p := rfl
@[simp] theorem State.setPending_sink (s : State) (p : Option Byte) : (s.setPending p).sink = s.sink := rfl
@[simp] theorem State.setPending_trace (s : State) (p : Option Byte) : (s.setPending p).trace = s.trace := rfl
@[simp] theorem State.setPending_returned (s : State) (p : Option Byte) : (s.setPending p).returned = s.returned := rfl
@[simp] theorem State.setPending_requests (s : State) (p : Option Byte) : (s.setPending p).requests = s.requests := rfl

@[simp] theorem State.setSink_pending (s : State) (b : Bool) : (s.setSink b).pending = s.pending := rfl
@[simp] theorem State.setSink_sink (s : State) (b : Bool) : (s.setSink b).sink = b := rfl
@[simp] theorem State.setSink_trace (s : State) (b : Bool) : (s.setSink b).trace = s.trace := rfl
@[simp] theorem State.setSink_returned (s : State) (b : Bool) : (s.setSink b).returned = s.returned := rfl
@[simp] theorem State.setSink_requests (s : State) (b : Bool) : (s.setSink b).requests = s.requests := rfl

@[simp] theorem State.emit_pending (s : State) (e : Event) : (s.emit e).pending = s.pending := rfl
@[simp] theorem State.emit_sink (s : State) (e : Event) : (s.emit e).sink = s.sink := rfl
@[simp] theorem State.emit_trace (s : State) (e : Event) : (s.emit e).trace = s.trace ++ [e] := rfl
@[simp] theorem State.emit_returned (s : State) (e : Event) : (s.emit e).returned = s.returned := rfl
@[simp] theorem State.emit_requests (s : State) (e : Event) : (s.emit e).requests = s.requests := rfl

@[simp] theorem State.returnByte_pending (s : State) (v : Byte) : (s.returnByte v).pending = s.pending := rfl
@[simp] theorem State.returnByte_sink (s : State) (v : Byte) : (s.returnByte v).sink = s.sink := rfl
@[simp] theorem State.returnByte_trace (s : State) (v : Byte) : (s.returnByte v).trace = s.trace := rfl
@[simp] theorem State.returnByte_returned (s : State) (v : Byte) : (s.returnByte v).returned = s.returned ++ [v] := rfl
@[simp] theorem State.returnByte_requests (s : State) (v : Byte) : (s.returnByte v).requests = s.requests := rfl

@[simp] theorem State.setRequests_pending (s : State) (rs : List Request) : (s.setRequests rs).pending = s.pending := rfl
@[simp] theorem State.setRequests_sink (s : State) (rs : List Request) : (s.setRequests rs).sink = s.sink := rfl
@[simp] theorem State.setRequests_trace (s : State) (rs : List Request) : (s.setRequests rs).trace = s.trace := rfl
@[simp] theorem State.setRequests_returned (s : State) (rs : List Request) : (s.setRequests rs).returned = s.returned := rfl
@[simp] theorem State.setRequests_requests (s : State) (rs : List Request) : (s.setRequests rs).requests = rs := rfl

/-- Two states are equal if their fields are. -/
theorem State.eq_of_fields {s t : State} (hp : s.pending = t.pending) (hs : s.sink = t.sink) (ht : s.trace = t.trace)
    (hr : s.returned = t.returned) (hq : s.requests = t.requests) : s = t := by
  cases s; cases t; simp_all

@[simp] theorem State.setRequests_setRequests (s : State) (xs ys : List Request) :
    (s.setRequests xs).setRequests ys = s.setRequests ys := rfl

@[simp] theorem State.setRequests_self (s : State) : s.setRequests s.requests = s := rfl

end Sys2Proof.Machine
end

