-- ==== Sys2Proof/Laws/Ops.lean ====
section
/-! SUPPORT. One lemma for each shared operation that says everything it does. -/

namespace Sys2Proof.Machine

/-- The status mux as a choice of two values (R53). -/
theorem status_eq (s : State) : status s = if s.pending = none then 0x00#8 else 0x08#8 := by
  cases h : s.pending <;> simp [status, dataAvailable, h]

/-- The Data register's read value (R15). -/
theorem dataValue_eq (s : State) : dataValue s = s.pending.getD 0#8 := rfl

@[simp] theorem readValue_data (s : State) : readValue .data s = dataValue s := rfl
@[simp] theorem readValue_status (s : State) : readValue .status s = status s := rfl
@[simp] theorem readValue_command (s : State) : readValue .command s = 0x0B#8 := rfl
@[simp] theorem readValue_control (s : State) : readValue .control s = 0x1C#8 := rfl
@[simp] theorem readValue_unmapped (s : State) : readValue .unmapped s = 0x00#8 := rfl

/-- What a register reads as depends on the buffer alone. -/
theorem readValue_congr {s t : State} (h : s.pending = t.pending) (r : Register) : readValue r s = readValue r t := by
  cases r <;> simp [dataValue, status, dataAvailable, h]

/-- Everything a host read does: one byte to the host, and for Data the buffer emptied (R51 to R55). -/
theorem hostRead_eq (r : Register) (s : State) :
    hostRead r s = { s with pending := if r = .data then none else s.pending, returned := s.returned ++ [readValue r s] } := by
  cases r <;> rfl

/-- Everything `sendToDevice` does: one event (R64). -/
theorem sendToDevice_eq (v : Byte) (s : State) :
    sendToDevice v s = { s with trace := s.trace ++ [if s.sink then .tx v else .drop v] } := rfl

/-- Everything a host write does: for Data one event, else nothing (R58 to R62). -/
theorem hostWrite_eq (r : Register) (v : Byte) (s : State) :
    hostWrite r v s = if r = .data then sendToDevice v s else s := by
  cases r <;> rfl

/-- Everything an inbound byte does (R49). -/
theorem receiveFromDevice_eq (b : Byte) (s : State) : receiveFromDevice b s = { s with pending := some b } := rfl

/-- Everything a registration does (R66, R67). -/
theorem setRegistration_eq (present : Bool) (s : State) : setRegistration present s = { s with sink := present } := rfl

/-- No transaction takes or adds a request. -/
@[simp] theorem applyTxn_requests (t : Txn) (s : State) : (applyTxn t s).requests = s.requests := by
  cases t with
  | peek a => simp [applyTxn, hostRead_eq]
  | poke a v => simp only [applyTxn, hostWrite_eq]; split <;> rfl
  | rx b => rfl
  | sinkSet p => rfl

/-- The requests that wait do not bear on what a transaction does. -/
theorem applyTxn_setRequests (t : Txn) (s : State) (rs : List Request) :
    applyTxn t (s.setRequests rs) = (applyTxn t s).setRequests rs := by
  cases t with
  | peek a => cases h : decodeIndex a <;> simp only [applyTxn, h] <;> rfl
  | poke a v => cases h : decodeIndex a <;> simp only [applyTxn, h] <;> rfl
  | rx b => rfl
  | sinkSet p => rfl

end Sys2Proof.Machine
end

