-- ==== Sys2Proof/Laws/Step.lean ====
section
/-! SUPPORT. What `exec` and `step` can do, said once; runs of `exec` taken apart. -/

namespace Sys2Proof.Machine

/-- A transaction by mnemonic does what its form does (30_encoding.md R43: the split "adds no behaviour"). -/
theorem exec_eq (i : Instr) (s : State) : exec i s = .next (applyTxn i.toTxn s) := by
  cases i <;> rfl

/-- A next state of `exec` is the one its form gives. -/
theorem exec_next {i : Instr} {s t : State} (h : exec i s = .next t) : t = applyTxn i.toTxn s := by
  rw [exec_eq] at h; exact (Host.Outcome.next.inj h).symm

@[simp] theorem execAll_nil (s : State) : execAll [] s = .next s := rfl

theorem execAll_cons (i : Instr) (is : List Instr) (s : State) :
    execAll (i :: is) s = execAll is (applyTxn i.toTxn s) := by
  simp [execAll, exec_eq]

/-- A run is the run of its forms. -/
theorem execAll_eq (is : List Instr) (s : State) : execAll is s = .next (applyTxns (is.map Instr.toTxn) s) := by
  induction is generalizing s with
  | nil => rfl
  | cons i is ih => rw [execAll_cons, ih]; rfl

@[simp] theorem present_requests (r : Request) (s : State) : (present r s).requests = r :: s.requests := rfl

@[simp] theorem fetch_present (r : Request) (s : State) : fetch (present r s) = (admission r, s) := rfl

/-- Everything a step can do: nothing, or carry out the one transaction the next request is. -/
theorem step_cases {s t : State} (h : step s = .next t) :
    (s.requests = [] ∧ t = s) ∨
    (∃ r rest, s.requests = r :: rest ∧ admission r = .idle ∧ t = s.setRequests rest) ∨
    (∃ r rest i, s.requests = r :: rest ∧ admission r = .run i ∧ t = applyTxn i.toTxn (s.setRequests rest)) := by
  cases hq : s.requests with
  | nil =>
    simp only [step, fetch, hq] at h
    exact .inl ⟨rfl, (Host.Outcome.next.inj h).symm⟩
  | cons r rest =>
    simp only [step, fetch, hq] at h
    cases ha : admission r with
    | idle =>
      simp only [ha] at h
      exact .inr (.inl ⟨r, rest, rfl, ha, (Host.Outcome.next.inj h).symm⟩)
    | run i =>
      simp only [ha] at h
      exact .inr (.inr ⟨r, rest, i, rfl, ha, exec_next h⟩)
    | refuse why => simp [ha] at h

/-- A run of the machine behind the host's interface, taken apart by its first step. -/
theorem core_run_of_step {s t : State} (n : Nat) (h : step s = .next t) :
    Host.Core.run Sys2Proof.core (n + 1) s = Host.Core.run Sys2Proof.core n t := by
  have hs : Sys2Proof.core.step s = .next t := h
  simp only [Host.Core.run, hs]

end Sys2Proof.Machine
end

