-- ==== Sys2Proof/Laws/Boundary.lean ====
section
/-! SUPPORT. What the boundary answers, one lemma for each of its operations. -/

namespace Sys2Proof.Machine

/-- A whole number is an index exactly when it is not negative (R71). -/
theorem indexOf_eq_some {a : Int} {n : Nat} : indexOf a = some n ↔ a = n := by
  unfold indexOf
  split
  · simp only [Option.some.injEq]; omega
  · simp only [reduceCtorEq, false_iff]; omega

theorem indexOf_eq_none {a : Int} : indexOf a = none ↔ a < 0 := by
  unfold indexOf
  split
  · simp only [reduceCtorEq, false_iff]; omega
  · simp only [true_iff]; omega

/-- A whole number is a byte exactly when it is the value of one (R71). -/
theorem byteOf_eq_some {v : Int} {b : Byte} : byteOf v = some b ↔ v = b.toNat := by
  have hb := b.isLt
  unfold byteOf
  split
  · simp only [Option.some.injEq, ← BitVec.toNat_inj, BitVec.toNat_ofNat]; omega
  · simp only [reduceCtorEq, false_iff]; omega

theorem byteOf_eq_none {v : Int} : byteOf v = none ↔ v < 0 ∨ 255 < v := by
  unfold byteOf
  split
  · simp only [reduceCtorEq, false_iff]; omega
  · simp only [true_iff]; omega

/-- A word runs as what the decoder reads in it (R43). -/
theorem admitWord_eq_run {w : Nat} {i : Instr} : admitWord w = .run i ↔ decodeNumber w = .instr i := by
  unfold admitWord
  cases decodeNumber w <;> simp

/-- The requests on the ports are as many as the lines asserted (R39). -/
theorem portRequests_length (p : PortIn) : (portRequests p).length = assertedLines p := by
  cases p with
  | mk hRd hWr hAddr hWdata rxValid rxData sinkSet sinkPresent =>
    cases hRd <;> cases hWr <;> cases rxValid <;> cases sinkSet <;> rfl

/-- The decoder on a word given as a number. -/
@[simp] theorem decodeNumber_toNat (w : TxnWord) : decodeNumber w.toNat = decodeWord w := by
  have hw := w.isLt
  simp [decodeNumber, Config.wordBound, show w.toNat < 1048576 from hw]

end Sys2Proof.Machine
end

