-- ==== Sys2Proof/Laws/PerInstr.lean ====
section
/-! SUPPORT. Statements about every transaction as a term, one lemma for each constructor. -/

namespace Sys2Proof.Laws.KindField

/-- The word of a transaction holds its kind, and the kind is not the reserved 0 (30_encoding.md R41). -/
def Statement (i : Instr) : Prop := kindField (encode i) = i.kindCode ∧ i.kindCode ≠ 0#4

theorem rdData : Statement .rdData := ⟨kindField_packWord _ _ _, by simp [Instr.kindCode]⟩
theorem rdStatus : Statement .rdStatus := ⟨kindField_packWord _ _ _, by simp [Instr.kindCode]⟩
theorem rdCmd : Statement .rdCmd := ⟨kindField_packWord _ _ _, by simp [Instr.kindCode]⟩
theorem rdCtrl : Statement .rdCtrl := ⟨kindField_packWord _ _ _, by simp [Instr.kindCode]⟩
theorem rdOther (a : Nat) : Statement (.rdOther a) := ⟨kindField_packWord _ _ _, by simp [Instr.kindCode]⟩
theorem wrData (v : Byte) : Statement (.wrData v) := ⟨kindField_packWord _ _ _, by simp [Instr.kindCode]⟩
theorem wrStatus (v : Byte) : Statement (.wrStatus v) := ⟨kindField_packWord _ _ _, by simp [Instr.kindCode]⟩
theorem wrCmd (v : Byte) : Statement (.wrCmd v) := ⟨kindField_packWord _ _ _, by simp [Instr.kindCode]⟩
theorem wrCtrl (v : Byte) : Statement (.wrCtrl v) := ⟨kindField_packWord _ _ _, by simp [Instr.kindCode]⟩
theorem wrOther (a : Nat) (v : Byte) : Statement (.wrOther a v) := ⟨kindField_packWord _ _ _, by simp [Instr.kindCode]⟩
theorem rx (b : Byte) : Statement (.rx b) := ⟨kindField_packWord _ _ _, by simp [Instr.kindCode]⟩
theorem sinkAttach : Statement .sinkAttach := ⟨kindField_packWord _ _ _, by simp [Instr.kindCode]⟩
theorem sinkDetach : Statement .sinkDetach := ⟨kindField_packWord _ _ _, by simp [Instr.kindCode]⟩

end Sys2Proof.Laws.KindField
end

