-- ==== Sys2Proof/Laws/Views.lean ====
section
/-! SUPPORT. The polling loop and the port read mux in terms of the block's own operations. -/

namespace Sys2Proof.Machine

/-- A run of transaction forms leaves the requests that wait alone. -/
@[simp] theorem applyTxns_requests (ts : List Txn) (s : State) : (applyTxns ts s).requests = s.requests := by
  induction ts generalizing s with
  | nil => rfl
  | cons t ts ih => rw [applyTxns, ih, applyTxn_requests]

/-- Everything one round of the polling loop does: it ends on a Full buffer, and on an Empty one the others go on. -/
theorem pollLoop_eq (schedule : List (List Txn)) (s : State) :
    pollLoop schedule s =
      if s.pending = none then
        match schedule with
        | [] => none
        | now :: later => pollLoop later (applyTxns now (s.returnByte 0x00#8))
      else some (s.returnByte 0x08#8) := by
  have hread : applyTxn (.peek 1) s = s.returnByte (status s) := rfl
  have hstat := status_eq s
  by_cases h : s.pending = none
  · rw [if_pos h] at hstat
    cases schedule <;> rw [pollLoop, hread, hstat] <;> simp [h, statusFull]
  · rw [if_neg h] at hstat
    cases schedule <;> rw [pollLoop, hread, hstat] <;> simp [h, statusFull]

/-- The port read mux is the register's value (R24, R39). -/
theorem portReadMux_eq (a : Nat) (s : State) : portReadMux a s = readValue (decodeIndex a) s := by
  rcases decodeIndex_cases a with rfl | rfl | rfl | rfl | ⟨h, h'⟩
  · cases hp : s.pending <;> simp [portReadMux, dataValue, hp]
  · cases hp : s.pending <;> simp [portReadMux, status_eq, hp, statusFull, statusEmpty]
  · rfl
  · rfl
  · rw [h']
    simp [portReadMux, unmappedRead, show a ≠ 0 by omega, show a ≠ 1 by omega, show a ≠ 2 by omega, show a ≠ 3 by omega]

end Sys2Proof.Machine
end

