-- ==== Sys2Proof/Tests/Slice0.lean ====
section
/-! SUPPORT. Tests of the model: ill-formed terms, words written out, the vectors of 95_test_vectors.md (one step each), and for
each statement with hypotheses a witness that meets them. Every expected value is the spec's. -/

open Sys2Proof Sys2Proof.Machine

namespace Sys2Proof.Tests

/-- A small state: buffer and registration, nothing recorded, nothing presented. -/
def st (pending : Option Byte) (sink : Bool) : State := { State.reset with pending := pending, sink := sink }

/-- The state `exec` answers, if it answers one. -/
def after (i : Instr) (s : State) : Option State :=
  match exec i s with
  | .next t => some t
  | .fault _ => none
  | .refused _ => none

/-- The state a step answers, if it answers one. -/
def stepped (s : State) : Option State :=
  match step s with
  | .next t => some t
  | .fault _ => none
  | .refused _ => none

/-- The refusal a step answers, if it answers one. -/
def refusal (s : State) : Option Refusal :=
  match step s with
  | .next _ => none
  | .fault _ => none
  | .refused why => some why

/-! ## Well-formedness: an ill-formed term for each check -/

theorem test_wf_refuses_rdOther_of_mapped_index : (Instr.rdOther 3).wf = false := by decide
theorem test_wf_refuses_wrOther_of_mapped_index : (Instr.wrOther 0 65).wf = false := by decide
theorem test_hasWord_refuses_rdOther_256 : (Instr.rdOther 256).hasWord = false := by decide
theorem test_hasWord_refuses_wrOther_256 : (Instr.wrOther 256 0).hasWord = false := by decide
theorem test_wf_admits_index_four : (Instr.rdOther 4).encodable = true ∧ (Instr.wrOther 255 7).encodable = true := by decide
theorem test_fits_width : (Txn.peek 3).fits 2 = true ∧ (Txn.peek 4).fits 2 = false := by decide

/-! ## Decoding (95_test_vectors.md 2.5) and the host's two questions -/

theorem test_reserved_words :
    decodeWord 0x00000#20 = .reserved (.kind 0) ∧ decodeWord 0x10001#20 = .reserved .peekData ∧
    decodeWord 0x30100#20 = .reserved .rxAddr ∧ decodeWord 0x40002#20 = .reserved .sinkData ∧
    decodeWord 0x40100#20 = .reserved .sinkAddr ∧ decodeWord 0x50000#20 = .reserved (.kind 5) ∧
    decodeWord 0xFFFFF#20 = .reserved (.kind 15) := by decide
theorem test_too_wide_number : decodeNumber 0x100000 = .reserved .tooWide := by decide
theorem test_decodeTableWord : decodeTableWord 24 0x30058 = some (.rx 88) ∧ decodeTableWord 24 0 = none := by decide
theorem test_encode_rdOther : encode (.rdOther 255) = 0x1FF00#20 := by decide
theorem test_encode_wrOther : encode (.wrOther 4 0x41) = 0x20441#20 := by decide
theorem test_fetch_word_runs_first : stepped (State.reset.withFetchWord 24 0x30058) = some (st (some 88) false) := by decide
theorem test_reserved_word_stops : refusal (State.reset.withFetchWord 24 0x50000) = some (.reservedWord (.kind 5)) := by decide

/-! ## Host reads (95_test_vectors.md 2.2) -/

theorem test_V_RD_2 : after .rdData (st (some 0x58) false) = some { st none false with returned := [0x58] } := by decide
theorem test_V_RD_3 : after .rdData (st (some 0x00) true) = some { st none true with returned := [0x00] } := by decide
theorem test_V_ST_1 : after .rdStatus (st none false) = some { st none false with returned := [0x00] } := by decide
theorem test_V_ST_2 : after .rdStatus (st (some 0x00) false) = some { st (some 0x00) false with returned := [0x08] } := by decide
theorem test_V_CM_2 : after .rdCmd (st (some 0x41) true) = some { st (some 0x41) true with returned := [11] } := by decide
theorem test_V_CT_2 : after .rdCtrl (st (some 0x41) true) = some { st (some 0x41) true with returned := [28] } := by decide
theorem test_V_OT_1 : after (.rdOther 4) (st (some 0x41) false) = some { st (some 0x41) false with returned := [0] } := by decide
theorem test_V_OT_4 : stepped (present (.call (.peek 256)) (st (some 0x41) false))
    = some { st (some 0x41) false with returned := [0] } := by decide

/-! ## Host writes and the outbound path (95_test_vectors.md 2.3) -/

theorem test_V_WD_2 : after (.wrData 0x41) (st none false) = some { st none false with trace := [.drop 0x41] } := by decide
theorem test_V_WD_4 : after (.wrData 0x41) (st (some 0x58) true)
    = some { st (some 0x58) true with trace := [.tx 0x41] } := by decide
theorem test_V_WS_2 : after (.wrStatus 0x00) (st (some 0x58) false) = some (st (some 0x58) false) := by decide
theorem test_V_WC_1 : (after (.wrCmd 0x00) (st none true)).bind (after .rdCmd)
    = some { st none true with returned := [0x0B] } := by decide
theorem test_V_WT_1 : (after (.wrCtrl 0xFF) (st none true)).bind (after .rdCtrl)
    = some { st none true with returned := [0x1C] } := by decide
theorem test_V_WO_1 : after (.wrOther 4 0x41) (st none true) = some (st none true) := by decide

/-! ## Inbound bytes and registration (95_test_vectors.md 2.1, 2.4) -/

theorem test_V_RX_3 : after (.rx 0x42) (st (some 0x41) false) = some (st (some 0x42) false) := by decide
theorem test_V_RX_1 : after (.rx 0x00) (st none false) = some (st (some 0x00) false) := by decide
theorem test_V_SK_1 : after .sinkAttach (st none false) = some (st none true) := by decide
theorem test_V_SK_3 : after .sinkDetach (st (some 0x41) true) = some (st (some 0x41) false) := by decide

/-! ## The boundary -/

/-- Port inputs with no request. -/
def quiet : PortIn := ⟨false, false, 0, 0, false, 0, false, false⟩

theorem test_call_value_256_refused : refusal (present (.call (.poke 0 256)) State.reset) = some (.notAByte 256) := by decide
theorem test_call_negative_index_refused : refusal (present (.call (.peek (-1))) State.reset) = some (.notAnIndex (-1)) := by decide
theorem test_two_requests_refused :
    refusal (present (.ports { quiet with hRd := true, rxValid := true }) State.reset) = some .simultaneousRequests := by decide
theorem test_port_write : stepped (present (.ports { quiet with hWr := true, hWdata := 65 }) (st none true))
    = some { st none true with trace := [.tx 65] } := by decide
theorem test_port_out : portOut { quiet with hWr := true, hWdata := 65 } (st none true)
    = ⟨none, true, some 65, false, none, false⟩ := by decide
theorem test_idle_step : stepped State.reset = some State.reset := by decide
theorem test_render : renderTxn (.poke 0 65) = "poke(0, 65)" ∧ renderTxn (.sinkSet true) = "sink(on)" := by decide
theorem test_poll_waits_for_push : (pollLoop [[], [.rx 104]] State.reset).map (·.returned) = some [0, 0, 8] := by decide

theorem test_getc_polls_once_when_full : Pseudo.getc.expand 0 = [.peek 1, .peek 0] := by decide

/-! ## Witnesses: the hypotheses of each statement can be met -/

theorem witness_AddressDecoderComparesWholeIndex : Config.minAddrWidth ≤ 2 ∧ decodeIndexAt 2 3#2 = .control ∧
    decodeIndexAt 3 4#3 = .unmapped ∧ decodeIndexAt 2 0#2 = .data := by decide
theorem witness_StatusMuxIsPresenceInBitThree :
    (st (some 0) false).pending.isSome = (st (some 255) true).pending.isSome := by decide
theorem witness_CommandAndControlReadConstants : ∀ i ∈ [Instr.wrCmd 31, .wrOther 4 1], isWrite i = true := by decide
theorem witness_UnmappedReadsReturnZero : 4 ≤ 255 ∧ 255 ≤ 255 ∧ decodeWord 0x10400#20 = .instr (.rdOther 4) ∧
    decodeWord 0x1FF00#20 = .instr (.rdOther 255) := by decide
theorem witness_NonDataReadsMayBeDropped : Instr.rdStatus.wf = true ∧ isRead .rdStatus = true ∧ Instr.rdStatus ≠ .rdData ∧
    exec .rdStatus (st (some 65) false) = .next { st (some 65) false with returned := [8] } ∧
    execAll [.rdData] (st (some 65) false) = .next { st none false with returned := [65] } :=
  ⟨rfl, rfl, by decide, rfl, rfl⟩
theorem witness_WrDataForwardsOrDrops : State.reset.sink = false := by decide
theorem witness_UnmappedWritesIgnored : 4 ≤ 4 ∧ 255 ≤ 255 ∧ decodeWord 0x204FF#20 = .instr (.wrOther 4 255) ∧
    decodeWord 0x2FF00#20 = .instr (.wrOther 255 0) := by decide
theorem witness_OneEventPerDataWrite : (Instr.wrData 65).wf = true ∧
    exec (.wrData 65) (st none true) = .next { st none true with trace := [.tx 65] } := ⟨rfl, rfl⟩
theorem witness_WritesLeaveReadValuesAlone : (∀ i ∈ [Instr.wrData 65, .wrStatus 0], isWrite i = true) ∧
    execAll [.wrData 65, .wrStatus 0] (st (some 88) true) = .next { st (some 88) true with trace := [.tx 65] } :=
  ⟨by decide, rfl⟩
theorem witness_UnregisteredRunOnlyDrops : (∀ i ∈ [Instr.wrData 65, .rx 1], i.wf = true ∧ i ≠ .sinkAttach) ∧
    State.reset.sink = false ∧
    execAll [.wrData 65, .rx 1] State.reset = .next { st (some 1) false with trace := [.drop 65] } :=
  ⟨by decide, rfl, rfl⟩
theorem witness_BufferTransitionTable : (Instr.rx 0).wf = true ∧ (Instr.rdOther 4).wf = true := by decide
theorem witness_BufferHoldsLastUnreadByte : ∀ i ∈ [Instr.rx 65, .rdData, .rx 66], i.wf = true := by decide
theorem witness_PollThenReadGetsNewestByte : (st (some 65) false).pending = some 65 ∧
    ∀ i ∈ [Instr.rdStatus, .rx 66], i.wf = true ∧ i ≠ .rdData := by decide
theorem witness_MnemonicSplitAddsNoBehaviour : (Instr.wrOther 4 1).wf = true := by decide
theorem witness_AgentsChangeOnlyTheirOwn :
    exec .rdData (st (some 1) true) = .next { st none true with returned := [1] } ∧ instrIssuer .rdData = .host ∧
    exec (.rx 1) State.reset = .next (st (some 1) false) ∧ instrIssuer (.rx 1) = .deviceDriver ∧
    exec .sinkAttach State.reset = .next (st none true) ∧ instrIssuer .sinkAttach = .environment :=
  ⟨rfl, rfl, rfl, rfl, rfl, rfl⟩
theorem witness_HostReadsIgnoreOutboundSide : execAll [.rx 1, .wrData 65, .rdData] State.reset
    = .next { st none false with trace := [.drop 65], returned := [1] } := rfl
theorem witness_OutboundTraceIgnoresInboundSide : execAll [.rx 1, .sinkAttach, .wrData 65] State.reset
    = .next { st (some 1) true with trace := [.tx 65] } := rfl
theorem witness_WritesAndInboundBytesCommute : (∀ i ∈ [Instr.wrData 65], isWrite i = true) ∧
    (∀ i ∈ [Instr.rx 66], instrIssuer i = .deviceDriver) ∧
    Interleaving [Instr.wrData 65] [.rx 66] [.wrData 65, .rx 66] ∧
    Interleaving [Instr.wrData 65] [.rx 66] [.rx 66, .wrData 65] :=
  ⟨by decide, by decide, .left (.right .nil), .right (.left .nil)⟩
theorem witness_SimultaneousReadAndReceiveHaveTwoOutcomes :
    Interleaving [Instr.rdData] [.rx 66] [.rdData, .rx 66] ∧ Interleaving [Instr.rdData] [.rx 66] [.rx 66, .rdData] :=
  ⟨.left (.right .nil), .right (.left .nil)⟩
theorem witness_StepKeepsRecordsGrowing : recordsExtend State.reset (present (.word 0x20041) State.reset) ∧
    step (present (.word 0x20041) State.reset) = .next { State.reset with trace := [.drop 65] } :=
  ⟨⟨List.prefix_rfl, List.prefix_rfl⟩, rfl⟩
theorem witness_StepKeepsRequestsAdmitted :
    (State.reset.setRequests [.word 0x10000, .call (.poke 0 255), .ports quiet]).allAdmitted = true := by decide
theorem witness_PresentedWordsRunInOrder : ∀ i ∈ [Instr.rx 65, .rdOther 255, .wrOther 4 1], i.encodable = true := by decide
theorem witness_StepRunsDecodedTransaction :
    (State.reset.setRequests [.word 0x30058, .word 0x10000]).requests = .word 0x30058 :: [.word 0x10000] ∧
    decodeNumber 0x30058 = .instr (.rx 88) ∧ decodeTableWord 24 0x10000 = some .rdData ∧
    (∃ n : Nat, Call.peek 4 = .peek n ∧ Txn.peek 4 = .peek n) ∧
    (∃ (n : Nat) (v : Byte), Call.poke 0 255 = .poke n v.toNat ∧ Txn.poke 0 255 = .poke n v) ∧
    (∃ b : Byte, Call.receiveFromDevice 0 = .receiveFromDevice b.toNat ∧ Txn.rx 0 = .rx b) ∧
    (∃ p, Call.sink true = .sink p ∧ Txn.sinkSet true = .sinkSet p) :=
  ⟨rfl, by decide, by decide, ⟨4, rfl, rfl⟩, ⟨0, 255, rfl, rfl⟩, ⟨0, rfl, rfl⟩, ⟨true, rfl, rfl⟩⟩
theorem witness_NoRequestNoChange : State.reset.requests = [] := by decide
theorem witness_AdmittedTransactionsAreWellFormed : admission (.word 0x10400) = .run (.rdOther 4) ∧
    admission (.call (.peek 256)) = .run (.rdOther 256) ∧
    admission (.ports { quiet with rxValid := true }) = .run (.rx 0) := by decide
theorem witness_ReservedWordsAreRefused : (decodeWord 0x00000#20).toOption = none ∧ (decodeWord 0x50000#20).toOption = none ∧
    (decodeWord 0x10001#20).toOption = none ∧ (decodeWord 0x30100#20).toOption = none ∧
    (decodeWord 0x40100#20).toOption = none ∧ (decodeWord 0x40002#20).toOption = none := by decide
theorem witness_PortStepAdmitsOneRequest : assertedLines quiet = 0 ∧ assertedLines { quiet with sinkSet := true } = 1 ∧
    2 ≤ assertedLines { quiet with hRd := true, hWr := true } := by decide
theorem witness_PortRenderingAgreesWithStep : assertedLines { quiet with hRd := true } ≤ 1 := by decide
theorem witness_DecodeOfEncode : (Instr.rdOther 4).encodable = true ∧ (Instr.rdOther 255).encodable = true ∧
    (Instr.wrOther 255 255).encodable = true := by decide
theorem witness_EncodeOfDecode : decodeWord 0x20441#20 = .instr (.wrOther 4 0x41) := by decide
theorem witness_WordsAreThoseOfTheSyntaxTable : (Instr.rx 255).encodable = true := by decide
theorem witness_DecodingIsFormThenAddressDecoder : wordTxn 0x1FF00#20 = some (.peek 255) ∧ 8 ≤ 8 := by decide
theorem witness_PollLoopEndsIffDevicePushes : State.reset.isEmpty = true ∧
    (∀ now ∈ [[Txn.peek 1], [Txn.rx 0]], Txn.peek 0 ∉ now) := by decide
theorem witness_PseudoTransactionsExpand : (st (some 0) true).pending = some 0 ∧ State.reset.pending = none ∧
    pollLoop [[.rx 104]] State.reset = some { st (some 104) false with returned := [0, 8] } := by decide

end Sys2Proof.Tests
end

/-! PROOF. What each agent's transactions change and leave unchanged, and the step with nothing to do (00_scope.md R5,
60_exceptions.md R76). -/

namespace Sys2Proof.Machine

/-! ## The two registers under a host access -/

@[simp] theorem hostRead_sink (r : Register) (s : State) : (hostRead r s).sink = s.sink := by
  rw [hostRead_eq]

@[simp] theorem hostRead_pending (r : Register) (s : State) :
    (hostRead r s).pending = if r = .data then none else s.pending := by
  rw [hostRead_eq]

@[simp] theorem hostWrite_sink (r : Register) (v : Byte) (s : State) : (hostWrite r v s).sink = s.sink := by
  cases r <;> rfl

@[simp] theorem hostWrite_pending (r : Register) (v : Byte) (s : State) : (hostWrite r v s).pending = s.pending := by
  cases r <;> rfl

/-! ## The transaction forms of each agent -/

/-- The device sink issues no transaction form (R5). -/
theorem txnIssuer_ne_deviceSink (x : Txn) : txnIssuer x ≠ .deviceSink := by
  cases x <;> simp [txnIssuer]

theorem txnIssuer_eq_deviceDriver {x : Txn} : txnIssuer x = .deviceDriver ↔ ∃ b, x = .rx b := by
  cases x <;> simp [txnIssuer]

theorem txnIssuer_eq_environment {x : Txn} : txnIssuer x = .environment ↔ ∃ present, x = .sinkSet present := by
  cases x <;> simp [txnIssuer]

theorem txnIssuer_eq_host {x : Txn} : txnIssuer x = .host ↔ (∃ a, x = .peek a) ∨ ∃ a v, x = .poke a v := by
  cases x <;> simp [txnIssuer]

/-- The host reads and writes registers; only its read of Data reaches the buffer, and that empties it (R11, R13). -/
theorem applyTxn_of_host {x : Txn} (hx : txnIssuer x = .host) (s : State) :
    (applyTxn x s).sink = s.sink ∧ ((applyTxn x s).pending = s.pending ∨ (applyTxn x s).pending = none) := by
  obtain ⟨a, rfl⟩ | ⟨a, v, rfl⟩ := txnIssuer_eq_host.mp hx
  · refine ⟨hostRead_sink _ s, ?_⟩
    by_cases ha : decodeIndex a = .data
    · exact .inr (by simp [applyTxn, ha])
    · exact .inl (by simp [applyTxn, ha])
  · exact ⟨hostWrite_sink _ v s, .inl (hostWrite_pending _ v s)⟩

/-- The device driver only pushes bytes: the buffer ends Full and nothing else changes. -/
theorem applyTxn_of_deviceDriver {x : Txn} (hx : txnIssuer x = .deviceDriver) (s : State) :
    applyTxn x s = { s with pending := (applyTxn x s).pending } ∧ (applyTxn x s).isFull = true := by
  obtain ⟨b, rfl⟩ := txnIssuer_eq_deviceDriver.mp hx
  exact ⟨receiveFromDevice_eq b s, rfl⟩

/-- The environment only registers or removes the sink. -/
theorem applyTxn_of_environment {x : Txn} (hx : txnIssuer x = .environment) (s : State) :
    applyTxn x s = { s with sink := (applyTxn x s).sink } := by
  obtain ⟨present, rfl⟩ := txnIssuer_eq_environment.mp hx
  exact setRegistration_eq present s

/-! ## The statements -/

/-- Settles O24: by what the forms of each agent do, `exec` carrying out the form of its mnemonic. -/
theorem agentsChangeOnlyTheirOwn : Obligations.AgentsChangeOnlyTheirOwn := by
  intro i s t h
  obtain rfl := exec_next h
  exact ⟨txnIssuer_ne_deviceSink _, fun hx => applyTxn_of_host hx s, fun hx => applyTxn_of_deviceDriver hx s,
    fun hx => applyTxn_of_environment hx s⟩

/-- With no request waiting there is nothing to take, and the block is idle. -/
theorem fetch_of_requests_nil {s : State} (h : s.requests = []) : fetch s = (.idle, s) := by
  simp only [fetch, h]

/-- Settles O34: the fetch is idle and takes nothing off the list. -/
theorem noRequestNoChange : Obligations.NoRequestNoChange := by
  intro s h
  rw [step, fetch_of_requests_nil h]

end Sys2Proof.Machine

/-! PROOF. What one transaction form does to the buffer and to the two records, and what follows for runs and for steps: the
records only grow, one event for each write to Data, the buffer's transition table, and that the host's view of the block does
not depend on the outbound side (10_state.md R10 to R14, R20, R22; 20_memory.md R33; 43_device_outbound.md R63, R64). -/

namespace Sys2Proof.Machine

/-! ## The two records under a host access -/

@[simp] theorem hostRead_trace (r : Register) (s : State) : (hostRead r s).trace = s.trace := by
  rw [hostRead_eq]

@[simp] theorem hostRead_returned (r : Register) (s : State) :
    (hostRead r s).returned = s.returned ++ [readValue r s] := by
  rw [hostRead_eq]

@[simp] theorem hostWrite_trace (r : Register) (v : Byte) (s : State) :
    (hostWrite r v s).trace = s.trace ++ if r = .data then [outboundEvent s.sink v] else [] := by
  cases r <;> simp [hostWrite, sendToDevice]

@[simp] theorem hostWrite_returned (r : Register) (v : Byte) (s : State) :
    (hostWrite r v s).returned = s.returned := by
  cases r <;> rfl

/-! ## Each field after a transaction form -/

/-- The events a form appends to the trace, given the registration. -/
def txnEvents (sink : Bool) : Txn → List Event
  | .poke a v => if decodeIndex a = .data then [outboundEvent sink v] else []
  | _ => []

/-- The bytes a form returns to the host. -/
def txnReturns (s : State) : Txn → List Byte
  | .peek a => [readValue (decodeIndex a) s]
  | _ => []

/-- The buffer a form leaves, given the one before it. -/
def txnPending (p : Option Byte) : Txn → Option Byte
  | .peek a => if decodeIndex a = .data then none else p
  | .rx b => some b
  | _ => p

theorem applyTxn_trace (x : Txn) (s : State) : (applyTxn x s).trace = s.trace ++ txnEvents s.sink x := by
  cases x with
  | peek a => simp [applyTxn, txnEvents]
  | poke a v => exact hostWrite_trace _ v s
  | rx b => simp [applyTxn, txnEvents, receiveFromDevice_eq]
  | sinkSet present => simp [applyTxn, txnEvents, setRegistration_eq]

theorem applyTxn_returned (x : Txn) (s : State) : (applyTxn x s).returned = s.returned ++ txnReturns s x := by
  cases x with
  | peek a => exact hostRead_returned _ s
  | poke a v => simp [applyTxn, txnReturns]
  | rx b => simp [applyTxn, txnReturns, receiveFromDevice_eq]
  | sinkSet present => simp [applyTxn, txnReturns, setRegistration_eq]

theorem applyTxn_pending (x : Txn) (s : State) : (applyTxn x s).pending = txnPending s.pending x := by
  cases x with
  | peek a => exact hostRead_pending _ s
  | poke a v => exact hostWrite_pending _ v s
  | rx b => rfl
  | sinkSet present => rfl

theorem applyTxns_append (xs ys : List Txn) (s : State) :
    applyTxns (xs ++ ys) s = applyTxns ys (applyTxns xs s) := by
  induction xs generalizing s with
  | nil => rfl
  | cons x xs ih => exact ih _

/-! ## The records only grow -/

theorem recordsExtend.trans {s t u : State} (hst : recordsExtend s t) (htu : recordsExtend t u) : recordsExtend s u :=
  ⟨hst.1.trans htu.1, hst.2.trans htu.2⟩

theorem recordsExtend_applyTxn (x : Txn) (s : State) : recordsExtend s (applyTxn x s) :=
  ⟨applyTxn_trace x s ▸ List.prefix_append _ _, applyTxn_returned x s ▸ List.prefix_append _ _⟩

/-- Taking a request off the list leaves the records as they are. -/
theorem recordsExtend_setRequests (s : State) (rs : List Request) : recordsExtend s (s.setRequests rs) :=
  ⟨List.prefix_rfl, List.prefix_rfl⟩

theorem recordsExtend_of_step {s t : State} (h : step s = .next t) : recordsExtend s t := by
  obtain ⟨-, rfl⟩ | ⟨_, rest, -, -, rfl⟩ | ⟨_, rest, i, -, -, rfl⟩ := step_cases h
  · exact ⟨List.prefix_rfl, List.prefix_rfl⟩
  · exact recordsExtend_setRequests s rest
  · exact (recordsExtend_setRequests s rest).trans (recordsExtend_applyTxn i.toTxn _)

/-- Settles O29: a step extends the records, and extension is transitive. -/
theorem stepKeepsRecordsGrowing : Obligations.StepKeepsRecordsGrowing := by
  intro s₀ s t h₀ h
  exact h₀.trans (recordsExtend_of_step h)

/-! ## One event for each write to Data -/

/-- Of the well-formed transactions only WR_DATA makes an event: the unmapped index of WR_OTHER does not select Data. -/
theorem txnEvents_of_wf {i : Instr} (hwf : i.wf = true) (sink : Bool) :
    txnEvents sink i.toTxn = (dataWriteByte i).toList.map (outboundEvent sink) := by
  cases i with
  | wrOther a v => simp [txnEvents, Instr.toTxn, dataWriteByte, decodeIndex_of_four_le (Instr.wf_wrOther.mp hwf)]
  | _ => rfl

/-- Nothing reads the trace: a transaction on a state with another trace does the same, and appends the same events (D7). -/
theorem applyTxn_with_trace (x : Txn) (s : State) (tr : List Event) :
    applyTxn x { s with trace := tr } = { applyTxn x s with trace := tr ++ txnEvents s.sink x } := by
  have hread (r : Register) : readValue r { s with trace := tr } = readValue r s := readValue_congr rfl r
  cases x with
  | peek a => simp [applyTxn, txnEvents, hostRead_eq, hread]
  | poke a v => cases h : decodeIndex a <;> simp [applyTxn, txnEvents, hostWrite_eq, sendToDevice, State.emit, h]
  | rx b => simp [applyTxn, txnEvents, receiveFromDevice_eq]
  | sinkSet present => simp [applyTxn, txnEvents, setRegistration_eq]

/-- Settles O12: by the events of a form, and by the form on a state whose trace alone is another. -/
theorem oneEventPerDataWrite : Obligations.OneEventPerDataWrite := by
  refine ⟨rfl, fun i s t hwf h => ?_, fun i s t tr h => ?_⟩
  · obtain rfl := exec_next h
    rw [applyTxn_trace, txnEvents_of_wf hwf]
    cases i <;> rfl
  · obtain rfl := exec_next h
    exact ⟨_, exec_eq i _, by simp [applyTxn_with_trace]⟩

/-! ## The buffer -/

/-- The buffer after a transaction that does not write it (R11). -/
theorem txnPending_of_not_touchesBuffer {i : Instr} (hwf : i.wf = true) (h : touchesBuffer i = false) (p : Option Byte) :
    txnPending p i.toTxn = p := by
  cases i with
  | rdData => simp [touchesBuffer] at h
  | rx b => simp [touchesBuffer] at h
  | rdOther a => simp [txnPending, Instr.toTxn, decodeIndex_of_four_le (Instr.wf_rdOther.mp hwf)]
  | _ => rfl

theorem touchesBuffer_eq_true {i : Instr} : touchesBuffer i = true ↔ i = .rdData ∨ ∃ b, i = .rx b := by
  cases i <;> simp [touchesBuffer]

/-- Settles O16: the buffer after each form, the unmapped reads being no reads of Data. -/
theorem bufferTransitionTable : Obligations.BufferTransitionTable := by
  refine ⟨rfl, fun s => ?_, fun s => Option.isNone_iff_eq_none, fun s => Option.isSome_iff_exists, fun i s hwf => ?_⟩
  · simp [State.isFull, State.isEmpty]
  · refine ⟨_, exec_eq i s, ?_⟩
    rw [applyTxn_pending]
    cases ht : touchesBuffer i with
    | true => obtain rfl | ⟨b, rfl⟩ := touchesBuffer_eq_true.mp ht <;> rfl
    | false =>
      rw [txnPending_of_not_touchesBuffer hwf ht]
      cases i <;> simp [touchesBuffer] at ht ⊢

/-- Settles O17: by induction on the run from its end, where the last transaction either writes the buffer or leaves it. -/
theorem bufferHoldsLastUnreadByte : Obligations.BufferHoldsLastUnreadByte := by
  intro js s hwf
  refine ⟨_, execAll_eq js s, ?_⟩
  induction js using List.reverseRecOn with
  | nil => rfl
  | append_singleton js i ih =>
    have hstep : (applyTxns ((js ++ [i]).map Instr.toTxn) s).pending =
        txnPending (applyTxns (js.map Instr.toTxn) s).pending i.toTxn := by
      rw [List.map_append, applyTxns_append]
      exact applyTxn_pending _ _
    rw [hstep]
    cases ht : touchesBuffer i with
    | true => obtain rfl | ⟨b, rfl⟩ := touchesBuffer_eq_true.mp ht <;> simp [ht, txnPending, Instr.toTxn]
    | false =>
      rw [txnPending_of_not_touchesBuffer (hwf i (by simp)) ht, ih fun j hj => hwf j (by simp [hj])]
      simp [ht]

/-! ## The host's view of the block -/

/-- All that reaches the host: the buffer its reads answer from, and the bytes it was answered. -/
def State.hostView (s : State) : Option Byte × List Byte := (s.pending, s.returned)

/-- What the host sees after a transaction depends on what it saw before it alone (R20). -/
theorem hostView_applyTxn_congr {s u : State} (h : s.hostView = u.hostView) (x : Txn) :
    (applyTxn x s).hostView = (applyTxn x u).hostView := by
  obtain ⟨hp, hr⟩ := Prod.mk.inj h
  have hreturns : txnReturns s x = txnReturns u x := by
    cases x with
    | peek a => exact congrArg (fun b => [b]) (readValue_congr hp _)
    | _ => rfl
  simp only [State.hostView, applyTxn_pending, applyTxn_returned, hp, hr, hreturns]

theorem isWrite_eq_true {i : Instr} : isWrite i = true ↔ ∃ a v, i.toTxn = .poke a v := by
  unfold isWrite
  cases i.toTxn <;> simp

theorem isRegistration_eq_true {i : Instr} : isRegistration i = true ↔ ∃ present, i.toTxn = .sinkSet present := by
  unfold isRegistration
  cases i.toTxn <;> simp

/-- A host write or a registration changes nothing the host sees (R20, R63). -/
theorem hostView_applyTxn_of_outbound {i : Instr} (h : (isWrite i || isRegistration i) = true) (s : State) :
    (applyTxn i.toTxn s).hostView = s.hostView := by
  rw [Bool.or_eq_true, isWrite_eq_true, isRegistration_eq_true] at h
  obtain ⟨a, v, hx⟩ | ⟨present, hx⟩ := h
  · simp [State.hostView, hx, applyTxn]
  · simp [State.hostView, hx, applyTxn, setRegistration_eq]

/-- The run with every host write and registration deleted shows the host the same. -/
theorem hostView_applyTxns_filter (js : List Instr) {s u : State} (h : s.hostView = u.hostView) :
    (applyTxns ((js.filter fun i => !(isWrite i || isRegistration i)).map Instr.toTxn) u).hostView =
      (applyTxns (js.map Instr.toTxn) s).hostView := by
  induction js generalizing s u with
  | nil => exact h.symm
  | cons i js ih =>
    cases hi : isWrite i || isRegistration i with
    | true =>
      rw [List.filter_cons_of_neg (by simp [hi])]
      exact ih ((hostView_applyTxn_of_outbound hi s).trans h)
    | false =>
      rw [List.filter_cons_of_pos (by simp [hi])]
      exact ih (hostView_applyTxn_congr h i.toTxn)

/-- Settles O25: the two runs show the host the same. -/
theorem hostReadsIgnoreOutboundSide : Obligations.HostReadsIgnoreOutboundSide := by
  intro js s t h
  rw [execAll_eq] at h
  obtain rfl := Host.Outcome.next.inj h
  exact ⟨_, execAll_eq _ s, Prod.mk.inj (hostView_applyTxns_filter js rfl)⟩

/-! ## Construction -/

/-- Settles O1: the status mux on the Empty buffer, the two constants, and the three reads of them run from construction. -/
theorem constructionGivesResetValues : Obligations.ConstructionGivesResetValues :=
  ⟨rfl, rfl, rfl, status_eq State.reset, readValue_command _, readValue_control _, execAll_eq _ _⟩

end Sys2Proof.Machine

/-! PROOF. The register index space and the order of transactions: the address decoder at every width, reads that a run may
leave out, writes and inbound bytes in any interleaving, and words run in the order they wait (20_memory.md R24, R30, R32, R33;
30_encoding.md R40, R43). -/

namespace Sys2Proof

/-! ## The address decoder -/

/-- An index of 2 bits or more is one of the mapped four exactly when its number is: no upper bit is left out (R24). -/
theorem eq_ofNat_iff_toNat_eq {n k : Nat} (hn : Config.minAddrWidth ≤ n) (hk : k < Config.registerCount) (a : BitVec n) :
    a = BitVec.ofNat n k ↔ a.toNat = k := by
  have hlt : k < 2 ^ n := lt_of_lt_of_le hk (Nat.pow_le_pow_right (n := 2) (by decide) hn)
  simp [BitVec.toNat_eq_nat, hlt]

/-- The decoder on `n` bits is the one on numbers, for every `n` of 2 and more (R24). -/
theorem decodeIndexAt_eq {n : Nat} (hn : Config.minAddrWidth ≤ n) (a : BitVec n) :
    decodeIndexAt n a = decodeIndex a.toNat := by
  simp (disch := decide) only [decodeIndexAt, decodeIndex, eq_ofNat_iff_toNat_eq hn]

/-! ## Mnemonics and words back to what they stand for -/

@[simp] theorem peekInstr_toTxn (a : Nat) : (peekInstr a).toTxn = .peek a := by
  obtain rfl | rfl | rfl | rfl | ⟨h, -⟩ := decodeIndex_cases a
  case inr.inr.inr.inr => rw [peekInstr_of_four_le h]; rfl
  all_goals rfl

@[simp] theorem pokeInstr_toTxn (a : Nat) (v : Byte) : (pokeInstr a v).toTxn = .poke a v := by
  obtain rfl | rfl | rfl | rfl | ⟨h, -⟩ := decodeIndex_cases a
  case inr.inr.inr.inr => rw [pokeInstr_of_four_le v h]; rfl
  all_goals rfl

/-- The mnemonic of a form stands for that form (R43). -/
@[simp] theorem Txn.toInstr_toTxn (x : Txn) : x.toInstr.toTxn = x := by
  cases x with
  | peek a => exact peekInstr_toTxn a
  | poke a v => exact pokeInstr_toTxn a v
  | rx b => rfl
  | sinkSet present => cases present <;> rfl

/-- What the decoder answers on packed fields that spell a Peek (R43). -/
theorem decodeWord_packWord_peek (a : Byte) : decodeWord (packWord 0x1#4 a 0x00#8) = .instr (peekInstr a.toNat) := by
  simp [decodeWord]

/-- What the decoder answers on packed fields that spell a Poke (R43). -/
theorem decodeWord_packWord_poke (a v : Byte) : decodeWord (packWord 0x2#4 a v) = .instr (pokeInstr a.toNat v) := by
  simp [decodeWord]

/-- What the decoder answers on packed fields that spell an Rx (R43). -/
theorem decodeWord_packWord_rx (b : Byte) : decodeWord (packWord 0x3#4 0x00#8 b) = .instr (.rx b) := by
  simp [decodeWord]

/-- The decoder reads from a transaction's word that transaction: an index that has a word fits the `addr` field (R40, R43). -/
theorem decodeWord_encode {i : Instr} (h : i.encodable = true) : decodeWord (encode i) = .instr i := by
  cases i with
  | rdData | rdStatus | rdCmd | rdCtrl => exact decodeWord_packWord_peek _
  | wrData v | wrStatus v | wrCmd v | wrCtrl v => exact decodeWord_packWord_poke _ v
  | rdOther a =>
    obtain ⟨ha, hlt⟩ := Instr.encodable_rdOther.mp h
    rw [encode, decodeWord_packWord_peek, BitVec.toNat_ofNat, Nat.mod_eq_of_lt hlt, peekInstr_of_four_le ha]
  | wrOther a v =>
    obtain ⟨ha, hlt⟩ := Instr.encodable_wrOther.mp h
    rw [encode, decodeWord_packWord_poke, BitVec.toNat_ofNat, Nat.mod_eq_of_lt hlt, pokeInstr_of_four_le v ha]
  | rx b => exact decodeWord_packWord_rx b
  | sinkAttach | sinkDetach => decide

end Sys2Proof

namespace Sys2Proof.Machine

/-- `exec` of a form's mnemonic is the form's meaning (R43). -/
theorem exec_toInstr (x : Txn) (s : State) : exec x.toInstr s = .next (applyTxn x s) := by
  rw [exec_eq, Txn.toInstr_toTxn]

/-- Settles O2: by the width of the index, and `exec` carrying out the form, whose index goes through the decoder. -/
theorem addressDecoderComparesWholeIndex : Obligations.AddressDecoderComparesWholeIndex :=
  ⟨fun _ => rfl, fun _ hn a => decodeIndexAt_eq hn a, fun a s => exec_toInstr (.peek a) s,
    fun a v s => exec_toInstr (.poke a v) s⟩

/-! ## Reads that a run may leave out -/

/-- A well-formed read other than RD_DATA is a read of a register other than Data. -/
theorem toTxn_of_nonDataRead {i : Instr} (hwf : i.wf = true) (hread : isRead i = true) (hi : i ≠ .rdData) :
    ∃ a, i.toTxn = .peek a ∧ decodeIndex a ≠ .data := by
  cases i with
  | rdData => exact absurd rfl hi
  | rdStatus | rdCmd | rdCtrl => exact ⟨_, rfl, by decide⟩
  | rdOther a => exact ⟨a, rfl, by simp [decodeIndex_of_four_le (Instr.wf_rdOther.mp hwf)]⟩
  | _ => cases hread

/-- Such a read changes the record of returned bytes alone (R30). -/
theorem applyTxn_of_nonDataRead {i : Instr} (hwf : i.wf = true) (hread : isRead i = true) (hi : i ≠ .rdData) (s : State) :
    applyTxn i.toTxn s = { s with returned := (applyTxn i.toTxn s).returned } := by
  obtain ⟨a, hx, ha⟩ := toTxn_of_nonDataRead hwf hread hi
  simp [hx, applyTxn, hostRead_eq, ha]

/-- The bytes a run of forms returns to the host. -/
def txnsReturns : List Txn → State → List Byte
  | [], _ => []
  | x :: xs, s => txnReturns s x ++ txnsReturns xs (applyTxn x s)

/-- Nothing reads the record of returned bytes: a form on a state with another record does the same (log 2). -/
theorem applyTxn_with_returned (x : Txn) (s : State) (bs : List Byte) :
    applyTxn x { s with returned := bs } = { applyTxn x s with returned := bs ++ txnReturns s x } := by
  have hread (r : Register) : readValue r { s with returned := bs } = readValue r s := readValue_congr rfl r
  cases x with
  | peek a => simp [applyTxn, txnReturns, hostRead_eq, hread]
  | poke a v => cases h : decodeIndex a <;> simp [applyTxn, txnReturns, hostWrite_eq, sendToDevice_eq, h]
  | rx b => simp [applyTxn, txnReturns, receiveFromDevice_eq]
  | sinkSet present => simp [applyTxn, txnReturns, setRegistration_eq]

theorem applyTxns_with_returned (xs : List Txn) (s : State) (bs : List Byte) :
    applyTxns xs { s with returned := bs } = { applyTxns xs s with returned := bs ++ txnsReturns xs s } := by
  induction xs generalizing s bs with
  | nil => simp [applyTxns, txnsReturns]
  | cons x xs ih => rw [applyTxns, applyTxn_with_returned, ih, List.append_assoc]; rfl

theorem applyTxns_returned (xs : List Txn) (s : State) :
    (applyTxns xs s).returned = s.returned ++ txnsReturns xs s :=
  congrArg State.returned (applyTxns_with_returned xs s s.returned)

/-- Settles O8: the read changes the record alone, and what runs after it returns the same bytes on either record. -/
theorem nonDataReadsMayBeDropped : Obligations.NonDataReadsMayBeDropped := by
  intro i js s t u hwf hread hi ht hu
  obtain rfl := exec_next ht
  rw [execAll_eq] at hu
  obtain rfl := Host.Outcome.next.inj hu
  have hframe := applyTxn_of_nonDataRead hwf hread hi s
  refine ⟨hframe, ?_⟩
  rw [hframe, execAll_eq, applyTxns_with_returned, applyTxns_returned, List.drop_left]

/-! ## Interleavings -/

/-- A transaction that commutes with each of a run may be carried out after the run instead of before it. -/
theorem execAll_cons_append_of_commute {xs : List Instr} {y : Instr}
    (h : ∀ x ∈ xs, Function.Commute (applyTxn x.toTxn) (applyTxn y.toTxn)) (ys : List Instr) (s : State) :
    execAll (y :: (xs ++ ys)) s = execAll (xs ++ y :: ys) s := by
  induction xs generalizing s with
  | nil => rfl
  | cons x xs ih =>
    obtain ⟨hx, hxs⟩ := List.forall_mem_cons.mp h
    calc execAll (y :: x :: (xs ++ ys)) s
        = execAll (y :: (xs ++ ys)) (applyTxn x.toTxn s) := by simp only [execAll_cons, hx s]
      _ = execAll (xs ++ y :: ys) (applyTxn x.toTxn s) := ih hxs _
      _ = execAll (x :: (xs ++ y :: ys)) s := (execAll_cons x _ s).symm

/-- If each transaction of one list commutes with each of the other, every interleaving of the two runs as the one list and
then the other. -/
theorem execAll_interleaving {xs ys zs : List Instr} (hz : Interleaving xs ys zs)
    (h : ∀ x ∈ xs, ∀ y ∈ ys, Function.Commute (applyTxn x.toTxn) (applyTxn y.toTxn)) (s : State) :
    execAll zs s = execAll (xs ++ ys) s := by
  induction hz generalizing s with
  | nil => rfl
  | @left x xs ys zs _ ih =>
    rw [List.cons_append, execAll_cons, execAll_cons, ih (List.forall_mem_cons.mp h).2]
  | @right y xs ys zs _ ih =>
    have hys : ∀ x ∈ xs, ∀ y' ∈ ys, Function.Commute (applyTxn x.toTxn) (applyTxn y'.toTxn) :=
      fun x hx y' hy => h x hx y' (List.mem_cons_of_mem y hy)
    rw [← execAll_cons_append_of_commute fun x hx => h x hx y List.mem_cons_self, execAll_cons, execAll_cons, ih hys]

/-- A host write and an inbound byte touch different halves of the block, so their order does not matter (R68). -/
theorem applyTxn_poke_commute_rx (a : Nat) (v b : Byte) : Function.Commute (applyTxn (.poke a v)) (applyTxn (.rx b)) := by
  intro s
  cases h : decodeIndex a <;> simp [applyTxn, hostWrite_eq, receiveFromDevice_eq, sendToDevice_eq, h]

/-- Settles O27: both interleavings run as the writes and then the inbound bytes. -/
theorem writesAndInboundBytesCommute : Obligations.WritesAndInboundBytesCommute := by
  intro ws ds xs ys s hws hds hxs hys
  have hcomm : ∀ i ∈ ws, ∀ j ∈ ds, Function.Commute (applyTxn i.toTxn) (applyTxn j.toTxn) := by
    intro i hi j hj
    obtain ⟨a, v, hpoke⟩ := isWrite_eq_true.mp (hws i hi)
    obtain ⟨b, hrx⟩ := txnIssuer_eq_deviceDriver.mp (hds j hj)
    rw [hpoke, hrx]
    exact applyTxn_poke_commute_rx a v b
  rw [execAll_interleaving hxs hcomm, execAll_interleaving hys hcomm]

/-! ## Words in the order they wait -/

/-- A step with a transaction's word waiting first carries out that transaction. -/
theorem step_word_encode {i : Instr} (hi : i.encodable = true) (rest : List Request) (s : State) :
    step (s.setRequests (.word (encode i).toNat :: rest)) = .next ((applyTxn i.toTxn s).setRequests rest) := by
  have hrun : admission (.word (encode i).toNat) = .run i :=
    admitWord_eq_run.mpr ((decodeNumber_toNat _).trans (decodeWord_encode hi))
  simp only [step, fetch, State.setRequests_requests, hrun, exec_eq, State.setRequests_setRequests, applyTxn_setRequests]

/-- Settles O32: by induction on the transactions, one step of the machine for the word of each. -/
theorem presentedWordsRunInOrder : Obligations.PresentedWordsRunInOrder := by
  intro is rest s henc
  induction is generalizing s with
  | nil => rfl
  | cons i is ih =>
    obtain ⟨hi, his⟩ := List.forall_mem_cons.mp henc
    rw [List.map_cons, List.cons_append, List.length_cons, core_run_of_step _ (step_word_encode hi _ s), ih _ his,
      execAll_cons, applyTxn_setRequests]

end Sys2Proof.Machine

/-! PROOF. The canonical word: every word is the word of one transaction form or is reserved, and on each of the two kinds the
decoder, the form reading, the opcode table and the encoder are evaluated once (30_encoding.md R38, R40 to R46). -/

namespace Sys2Proof

/-! ## Mnemonics and forms -/

/-- The mnemonic of a form is well formed: the address decoder leaves an index to RD_OTHER or WR_OTHER only from 4 on (R43). -/
theorem Txn.toInstr_wf (x : Txn) : x.toInstr.wf = true := by
  cases x with
  | peek a =>
    obtain rfl | rfl | rfl | rfl | ⟨h, -⟩ := decodeIndex_cases a
    case inr.inr.inr.inr => rw [Txn.toInstr, peekInstr_of_four_le h, Instr.wf_rdOther]; exact h
    all_goals rfl
  | poke a v =>
    obtain rfl | rfl | rfl | rfl | ⟨h, -⟩ := decodeIndex_cases a
    case inr.inr.inr.inr => rw [Txn.toInstr, pokeInstr_of_four_le v h, Instr.wf_wrOther]; exact h
    all_goals rfl
  | rx b => rfl
  | sinkSet present => cases present <;> rfl

/-- A well-formed mnemonic is the one its form decodes to: the index of the two unmapped rows selects no register (R43). -/
theorem Instr.toTxn_toInstr {i : Instr} (h : i.wf = true) : i.toTxn.toInstr = i := by
  cases i with
  | rdOther a => exact peekInstr_of_four_le (Instr.wf_rdOther.mp h)
  | wrOther a v => exact pokeInstr_of_four_le v (Instr.wf_wrOther.mp h)
  | _ => rfl

/-- A mnemonic has a word exactly when its form's index fits the 8 bits of the `addr` field (R40, R45). -/
theorem Instr.hasWord_eq_fits (i : Instr) : i.hasWord = i.toTxn.fits 8 := by
  cases i <;> rfl

/-! ## The word of a form -/

/-- The word of a transaction form whose index fits the `addr` field (R40, R41). -/
def Txn.word : Txn → TxnWord
  | .peek a => packWord 0x1#4 (BitVec.ofNat 8 a) 0x00#8
  | .poke a v => packWord 0x2#4 (BitVec.ofNat 8 a) v
  | .rx b => packWord 0x3#4 0x00#8 b
  | .sinkSet present => packWord 0x4#4 0x00#8 (if present then 0x01#8 else 0x00#8)

/-- The word of a mnemonic is the word of its form (R46). -/
theorem encode_eq_word (i : Instr) : encode i = i.toTxn.word := by
  cases i <;> rfl

/-- R44's condition on the fields of a word. -/
def IsReservedWord (w : TxnWord) : Prop :=
  (kindField w).toNat = 0 ∨ 5 ≤ (kindField w).toNat ∨ ((kindField w).toNat = 1 ∧ dataField w ≠ 0) ∨
    ((kindField w).toNat = 3 ∧ addrField w ≠ 0) ∨
    ((kindField w).toNat = 4 ∧ (addrField w ≠ 0 ∨ 2 ≤ (dataField w).toNat))

/-- A number of 8 bits survives the `addr` field. -/
theorem toNat_ofNat_of_fits {a : Nat} (h : (Txn.peek a).fits 8 = true) : (BitVec.ofNat 8 a).toNat = a :=
  Nat.mod_eq_of_lt (of_decide_eq_true h)

theorem exists_ofNat_of_byte (a : Byte) : ∃ n, (Txn.peek n).fits 8 = true ∧ BitVec.ofNat 8 n = a :=
  ⟨a.toNat, decide_eq_true a.isLt, by simp⟩

/-- Every word is reserved or the word of a form: the four kinds of R41, with the fields R44 leaves to each. -/
theorem word_cases (w : TxnWord) : IsReservedWord w ∨ ∃ x : Txn, x.fits 8 = true ∧ w = x.word := by
  by_cases hres : IsReservedWord w
  · exact .inl hres
  · refine .inr ?_
    rw [← packWord_fields w] at hres ⊢
    generalize kindField w = k, addrField w = a, dataField w = d at hres ⊢
    simp only [IsReservedWord, kindField_packWord, addrField_packWord, dataField_packWord, not_or, not_and,
      not_not] at hres
    obtain ⟨h0, h5, hpeek, hrx, hsink⟩ := hres
    obtain ⟨n, hn, rfl⟩ := exists_ofNat_of_byte a
    have hk : k = 1#4 ∨ k = 2#4 ∨ k = 3#4 ∨ k = 4#4 := by bv_omega
    obtain rfl | rfl | rfl | rfl := hk
    · exact ⟨.peek n, hn, by rw [hpeek rfl]; rfl⟩
    · exact ⟨.poke n d, hn, rfl⟩
    · exact ⟨.rx d, rfl, by rw [hrx rfl]; rfl⟩
    · obtain ⟨ha, hd⟩ := hsink rfl
      have hd' : d = 1#8 ∨ d = 0#8 := by bv_omega
      obtain rfl | rfl := hd'
      · exact ⟨.sinkSet true, rfl, by rw [ha]; rfl⟩
      · exact ⟨.sinkSet false, rfl, by rw [ha]; rfl⟩

theorem not_isReservedWord_word (x : Txn) : ¬ IsReservedWord x.word := by
  cases x with
  | sinkSet present => cases present <;> simp [IsReservedWord, Txn.word]
  | _ => simp [IsReservedWord, Txn.word]

/-! ## The decoder -/

theorem Decoded.toOption_eq_some {x : Decoded} {i : Instr} : x.toOption = some i ↔ x = .instr i := by
  cases x <;> simp [Decoded.toOption]

/-- The word of a form decodes to the mnemonic of that form (R43). -/
theorem decodeWord_word {x : Txn} (h : x.fits 8 = true) : decodeWord x.word = .instr x.toInstr := by
  cases x with
  | peek a => rw [Txn.word, decodeWord_packWord_peek, toNat_ofNat_of_fits h]; rfl
  | poke a v => rw [Txn.word, decodeWord_packWord_poke, toNat_ofNat_of_fits h]; rfl
  | rx b => exact decodeWord_packWord_rx b
  | sinkSet present => cases present <;> rfl

/-- R44's list with the fields compared as bit vectors. -/
theorem IsReservedWord.fields {w : TxnWord} (h : IsReservedWord w) :
    (kindField w ≠ 1#4 ∧ kindField w ≠ 2#4 ∧ kindField w ≠ 3#4 ∧ kindField w ≠ 4#4) ∨
    (kindField w = 1#4 ∧ dataField w ≠ 0#8) ∨ (kindField w = 3#4 ∧ addrField w ≠ 0#8) ∨
    (kindField w = 4#4 ∧ addrField w ≠ 0#8) ∨ (kindField w = 4#4 ∧ dataField w ≠ 0#8 ∧ dataField w ≠ 1#8) := by
  unfold IsReservedWord at h
  generalize kindField w = k, addrField w = a, dataField w = d at h ⊢
  bv_omega

/-- The decoder answers RESERVED on every word R44 lists. -/
theorem decodeWord_of_isReservedWord {w : TxnWord} (h : IsReservedWord w) : ∃ why, decodeWord w = .reserved why := by
  obtain ⟨h1, h2, h3, h4⟩ | ⟨hk, hd⟩ | ⟨hk, ha⟩ | ⟨hk, ha⟩ | ⟨hk, hd0, hd1⟩ := h.fields
  · simp [decodeWord, h1, h2, h3, h4]
  · simp [decodeWord, hk, hd]
  · simp [decodeWord, hk, ha]
  · simp [decodeWord, hk, ha]
  · by_cases ha : addrField w = 0#8 <;> simp [decodeWord, hk, ha, hd0, hd1]

/-- A word is refused by the decoder exactly when R44 lists it. -/
theorem decodeWord_toOption_eq_none {w : TxnWord} : (decodeWord w).toOption = none ↔ IsReservedWord w := by
  obtain hres | ⟨x, hfit, rfl⟩ := word_cases w
  · obtain ⟨why, hwhy⟩ := decodeWord_of_isReservedWord hres
    simp [hwhy, Decoded.toOption, hres]
  · simp [decodeWord_word hfit, Decoded.toOption, not_isReservedWord_word]

/-- A word decodes to a transaction exactly as the word of a form does. -/
theorem exists_word_of_decodeWord {w : TxnWord} {i : Instr} (h : decodeWord w = .instr i) :
    ∃ x : Txn, x.fits 8 = true ∧ w = x.word ∧ i = x.toInstr := by
  obtain hres | ⟨x, hfit, rfl⟩ := word_cases w
  · obtain ⟨why, hwhy⟩ := decodeWord_of_isReservedWord hres
    rw [hwhy] at h
    cases h
  · rw [decodeWord_word hfit] at h
    exact ⟨x, hfit, rfl, (Decoded.instr.inj h).symm⟩

/-- The mnemonic of a form that fits the word is encodable. -/
theorem Txn.toInstr_encodable {x : Txn} (h : x.fits 8 = true) : x.toInstr.encodable = true := by
  rw [Instr.encodable, x.toInstr_wf, Instr.hasWord_eq_fits, x.toInstr_toTxn, h, Bool.and_self]

/-- Settles O40: the encoder packs the fields the decoder reads, and an index that has a word fits its field. -/
theorem decodeOfEncode : Obligations.DecodeOfEncode :=
  fun _ h => decodeWord_encode h

/-- Settles O41: a word that is not reserved is the word of one form, whose mnemonic the decoder answers. -/
theorem encodeOfDecode : Obligations.EncodeOfDecode := by
  intro w i h
  obtain ⟨x, hfit, rfl, rfl⟩ := exists_word_of_decodeWord h
  exact ⟨Txn.toInstr_encodable hfit, by rw [encode_eq_word, Txn.toInstr_toTxn]⟩

/-- Settles O42: a packed word as a number, the index of an encodable transaction being its own `addr` field. -/
theorem wordsAreThoseOfTheSyntaxTable : Obligations.WordsAreThoseOfTheSyntaxTable := by
  intro i h
  cases i with
  | rdOther a =>
    obtain ⟨-, hlt⟩ := Instr.encodable_rdOther.mp h
    simp [encode, packWord_toNat, Nat.mod_eq_of_lt hlt]
  | wrOther a v =>
    obtain ⟨-, hlt⟩ := Instr.encodable_wrOther.mp h
    simp [encode, packWord_toNat, Nat.mod_eq_of_lt hlt]
  | _ => simp [encode, packWord_toNat]

/-! ## The form reading -/

/-- The form read from the word of a form is that form (R41, R42). -/
theorem wordTxn_word {x : Txn} (h : x.fits 8 = true) : wordTxn x.word = some x := by
  cases x with
  | peek a => simp [wordTxn, Txn.word, toNat_ofNat_of_fits h]
  | poke a v => simp [wordTxn, Txn.word, toNat_ofNat_of_fits h]
  | rx b => simp [wordTxn, Txn.word]
  | sinkSet present => cases present <;> decide

/-- No form is read from a reserved word. -/
theorem wordTxn_of_isReservedWord {w : TxnWord} (h : IsReservedWord w) : wordTxn w = none := by
  obtain ⟨h1, h2, h3, h4⟩ | ⟨hk, hd⟩ | ⟨hk, ha⟩ | ⟨hk, ha⟩ | ⟨hk, hd0, hd1⟩ := h.fields
  · simp [wordTxn, h1, h2, h3, h4]
  · simp [wordTxn, hk, hd]
  · simp [wordTxn, hk, ha]
  · simp [wordTxn, hk, ha]
  · have hd : ¬ (dataField w).toNat ≤ 1 := by bv_omega
    simp [wordTxn, hk, hd]

/-- A wider block has every index of a narrower one (R4). -/
theorem Txn.fits_mono {m n : Nat} (hmn : m ≤ n) {x : Txn} (h : x.fits m = true) : x.fits n = true := by
  have hpow : 2 ^ m ≤ 2 ^ n := Nat.pow_le_pow_right (by decide) hmn
  cases x with
  | peek a | poke a v => exact decide_eq_true ((of_decide_eq_true h).trans_le hpow)
  | _ => rfl

/-- Settles O44: on the word of a form both readings give that form, whose index fits 8 bits; on a reserved word, none. -/
theorem decodingIsFormThenAddressDecoder : Obligations.DecodingIsFormThenAddressDecoder := by
  refine ⟨fun w => ?_, fun w x addrW hw h => ?_⟩
  · obtain hres | ⟨x, hfit, rfl⟩ := word_cases w
    · rw [wordTxn_of_isReservedWord hres, decodeWord_toOption_eq_none.mpr hres]; rfl
    · rw [wordTxn_word hfit, decodeWord_word hfit]; rfl
  · obtain hres | ⟨y, hfit, rfl⟩ := word_cases w
    · rw [wordTxn_of_isReservedWord hres] at h
      cases h
    · rw [wordTxn_word hfit] at h
      obtain rfl := Option.some.inj h
      exact Txn.fits_mono hw hfit

/-! ## The opcode table -/

/-- A field under the mask of all ones is the field. -/
theorem kind_and_ones (k : BitVec 4) : k &&& 0xF#4 = k := BitVec.and_allOnes

theorem byte_and_ones (a : Byte) : a &&& 0xFF#8 = a := BitVec.and_allOnes

/-- Words are equal if their fields are. -/
theorem word_eq_iff_fields {w v : TxnWord} :
    w = v ↔ kindField w = kindField v ∧ addrField w = addrField v ∧ dataField w = dataField v := by
  rw [← packWord_inj, packWord_fields, packWord_fields]

/-- A mask acts on the three fields apart. -/
theorem and_fields (w m : TxnWord) : kindField (w &&& m) = kindField w &&& kindField m ∧
    addrField (w &&& m) = addrField w &&& addrField m ∧ dataField (w &&& m) = dataField w &&& dataField m := by
  rw [← packWord_inj, packWord_fields, ← packWord_and, packWord_fields, packWord_fields]

/-- A row's mask and pattern compare the three fields apart. -/
theorem OpcodeRow.covers_eq (r : OpcodeRow) (w : TxnWord) : r.covers w =
    (kindField w &&& kindField r.mask == kindField r.pattern && (addrField w &&& addrField r.mask == addrField r.pattern &&
      dataField w &&& dataField r.mask == dataField r.pattern) && (!r.unmappedOnly || decide (4 ≤ (addrField w).toNat))) := by
  obtain ⟨hk, ha, hd⟩ := and_fields w r.mask
  simp only [OpcodeRow.covers, beq_eq_decide, word_eq_iff_fields, hk, ha, hd, Bool.decide_and]

/-- The condition of each row on the fields of a word: its mask takes a field whole or leaves it out. -/
theorem opcodeTable_covers (w : TxnWord) : opcodeTable.map (fun r => (r.mnemonic, r.covers w)) =
    [ ("RD_DATA", kindField w == 1#4 && (addrField w == 0#8 && dataField w == 0#8)),
      ("RD_STATUS", kindField w == 1#4 && (addrField w == 1#8 && dataField w == 0#8)),
      ("RD_CMD", kindField w == 1#4 && (addrField w == 2#8 && dataField w == 0#8)),
      ("RD_CTRL", kindField w == 1#4 && (addrField w == 3#8 && dataField w == 0#8)),
      ("RD_OTHER", kindField w == 1#4 && dataField w == 0#8 && decide (4 ≤ (addrField w).toNat)),
      ("WR_DATA", kindField w == 2#4 && addrField w == 0#8),
      ("WR_STATUS", kindField w == 2#4 && addrField w == 1#8),
      ("WR_CMD", kindField w == 2#4 && addrField w == 2#8),
      ("WR_CTRL", kindField w == 2#4 && addrField w == 3#8),
      ("WR_OTHER", kindField w == 2#4 && decide (4 ≤ (addrField w).toNat)),
      ("RX", kindField w == 3#4 && addrField w == 0#8),
      ("SINK_ATTACH", kindField w == 4#4 && (addrField w == 0#8 && dataField w == 1#8)),
      ("SINK_DETACH", kindField w == 4#4 && (addrField w == 0#8 && dataField w == 0#8)) ] := by
  simp [opcodeTable, OpcodeRow.covers_eq, kindField, addrField, dataField, kind_and_ones, byte_and_ones]

/-- The rows a word is in are those whose condition it meets. -/
theorem tableMnemonics_eq (w : TxnWord) : tableMnemonics w =
    ((opcodeTable.map fun r => (r.mnemonic, r.covers w)).filter Prod.snd).map Prod.fst := by
  simp [tableMnemonics, List.filter_map, Function.comp_def]

/-- A reserved word is in no row: each row asks for a kind of its own and for the fields R44 lists. -/
theorem tableMnemonics_of_isReservedWord {w : TxnWord} (h : IsReservedWord w) : tableMnemonics w = [] := by
  rw [tableMnemonics_eq, opcodeTable_covers]
  obtain ⟨h1, h2, h3, h4⟩ | ⟨hk, hd⟩ | ⟨hk, ha⟩ | ⟨hk, ha⟩ | ⟨hk, hd0, hd1⟩ := h.fields
  · simp [h1, h2, h3, h4]
  · simp [hk, hd]
  · simp [hk, ha]
  · simp [hk, ha]
  · simp [hk, hd0, hd1]

/-- An `addr` field of 4 and above is none of the mapped indices. -/
theorem byte_ne_of_four_le {a : Byte} (h : 4 ≤ a.toNat) : a ≠ 0#8 ∧ a ≠ 1#8 ∧ a ≠ 2#8 ∧ a ≠ 3#8 := by
  bv_omega

/-- The word of a form is in the row of its mnemonic and in no other. -/
theorem tableMnemonics_word {x : Txn} (h : x.fits 8 = true) : tableMnemonics x.word = [x.toInstr.mnemonic] := by
  rw [tableMnemonics_eq, opcodeTable_covers]
  cases x with
  | peek a =>
    obtain rfl | rfl | rfl | rfl | ⟨ha, -⟩ := decodeIndex_cases a
    case inr.inr.inr.inr =>
      have hbyte : 4 ≤ (BitVec.ofNat 8 a).toNat := (toNat_ofNat_of_fits h).symm ▸ ha
      obtain ⟨h0, h1, h2, h3⟩ := byte_ne_of_four_le hbyte
      simp [-BitVec.toNat_ofNat, Txn.word, Txn.toInstr, peekInstr_of_four_le ha, Instr.mnemonic, hbyte, h0, h1, h2, h3]
    all_goals decide
  | poke a v =>
    obtain rfl | rfl | rfl | rfl | ⟨ha, -⟩ := decodeIndex_cases a
    case inr.inr.inr.inr =>
      have hbyte : 4 ≤ (BitVec.ofNat 8 a).toNat := (toNat_ofNat_of_fits h).symm ▸ ha
      obtain ⟨h0, h1, h2, h3⟩ := byte_ne_of_four_le hbyte
      simp [-BitVec.toNat_ofNat, Txn.word, Txn.toInstr, pokeInstr_of_four_le v ha, Instr.mnemonic, hbyte, h0, h1, h2, h3]
    all_goals simp [Txn.word, Txn.toInstr, Instr.mnemonic]
  | rx b => simp [Txn.word, Txn.toInstr, Instr.mnemonic]
  | sinkSet present => cases present <;> decide

/-- Settles O43: the word of a form is in its own row alone, a reserved word in none. -/
theorem decoderAgreesWithOpcodeTable : Obligations.DecoderAgreesWithOpcodeTable := by
  intro w
  obtain hres | ⟨x, hfit, rfl⟩ := word_cases w
  · rw [tableMnemonics_of_isReservedWord hres, decodeWord_toOption_eq_none.mpr hres]; rfl
  · rw [tableMnemonics_word hfit, decodeWord_word hfit]; rfl

end Sys2Proof

/-! PROOF. The boundary and the step: what is admitted is the mnemonic of a form, a step with a request waiting is `exec` of what
the boundary answers for it, a port step is the one line asserted, and the host's scripts are runs of forms (30_encoding.md R38,
R39, R43, R44, R47; 60_exceptions.md R71, R72). -/

namespace Sys2Proof.Machine

/-- Settles O23: `exec` carries out the form of its mnemonic, and forms and well-formed mnemonics are each other's. -/
theorem mnemonicSplitAddsNoBehaviour : Obligations.MnemonicSplitAddsNoBehaviour :=
  ⟨fun x s => ⟨exec_toInstr x s, x.toInstr_toTxn, x.toInstr_wf⟩, fun _ h => Instr.toTxn_toInstr h⟩

/-! ## What the boundary admits -/

theorem admitTxn_eq_run {x : Txn} {i : Instr} : admitTxn x = .run i ↔ i = x.toInstr := by
  simp [admitTxn, eq_comm]

/-- A call that is admitted is the mnemonic of a form (R38). -/
theorem exists_txn_of_admitCall {c : Call} {i : Instr} (h : admitCall c = .run i) : ∃ x : Txn, i = x.toInstr := by
  cases c with
  | peek a =>
    cases ha : indexOf a with
    | none => simp [admitCall, ha] at h
    | some n => exact ⟨_, admitTxn_eq_run.mp (by simpa [admitCall, ha] using h)⟩
  | poke a v =>
    cases ha : indexOf a with
    | none => simp [admitCall, ha] at h
    | some n =>
      cases hv : byteOf v with
      | none => simp [admitCall, ha, hv] at h
      | some b => exact ⟨_, admitTxn_eq_run.mp (by simpa [admitCall, ha, hv] using h)⟩
  | receiveFromDevice ch =>
    cases hc : byteOf ch with
    | none => simp [admitCall, hc] at h
    | some b => exact ⟨_, admitTxn_eq_run.mp (by simpa [admitCall, hc] using h)⟩
  | sink on => exact ⟨_, admitTxn_eq_run.mp h⟩

/-- A port step that is admitted with a request is the mnemonic of the form asserted (R39). -/
theorem exists_txn_of_admitPorts {p : PortIn} {i : Instr} (h : admitPorts p = .run i) : ∃ x : Txn, i = x.toInstr := by
  unfold admitPorts at h
  split at h
  · cases h
  · exact ⟨_, admitTxn_eq_run.mp h⟩
  · cases h

/-- A number that is a transaction's word decodes to the mnemonic of a form that fits the word (R40). -/
theorem exists_txn_of_decodeNumber {n : Nat} {i : Instr} (h : decodeNumber n = .instr i) :
    ∃ x : Txn, x.fits 8 = true ∧ i = x.toInstr := by
  unfold decodeNumber at h
  split at h
  · obtain ⟨x, hfit, -, rfl⟩ := exists_word_of_decodeWord h
    exact ⟨x, hfit, rfl⟩
  · cases h

/-- Settles O35: each way of presenting admits only the mnemonic of a form, and a word only one whose index fits it. -/
theorem admittedTransactionsAreWellFormed : Obligations.AdmittedTransactionsAreWellFormed := by
  intro r i h
  cases r with
  | call c =>
    obtain ⟨x, rfl⟩ := exists_txn_of_admitCall h
    exact ⟨x.toInstr_wf, fun _ hw => by cases hw⟩
  | ports p =>
    obtain ⟨x, rfl⟩ := exists_txn_of_admitPorts h
    exact ⟨x.toInstr_wf, fun _ hw => by cases hw⟩
  | word w =>
    obtain ⟨x, hfit, rfl⟩ := exists_txn_of_decodeNumber (admitWord_eq_run.mp h)
    exact ⟨x.toInstr_wf, fun _ _ => by rw [Instr.hasWord_eq_fits, x.toInstr_toTxn, hfit]⟩

/-! ## The step, by what the boundary answers -/

/-- A request admitted as a transaction is carried out on the state with the request taken off. -/
theorem step_of_run {s : State} {r : Request} {rest : List Request} {i : Instr} (hs : s.requests = r :: rest)
    (h : admission r = .run i) : step s = exec i (s.setRequests rest) := by
  simp only [step, fetch, hs, h]

theorem step_present_of_run {r : Request} {i : Instr} (h : admission r = .run i) (s : State) :
    step (present r s) = exec i s :=
  step_of_run rfl h

theorem step_present_of_idle {r : Request} (h : admission r = .idle) (s : State) : step (present r s) = .next s := by
  simp only [step, fetch_present, h]

theorem step_present_of_refuse {r : Request} {why : Refusal} (h : admission r = .refuse why) (s : State) :
    step (present r s) = .refused why := by
  simp only [step, fetch_present, h]

/-! A call whose operands are an index and a byte is admitted as its form (R38). -/

theorem admitCall_peek (n : Nat) : admitCall (.peek n) = admitTxn (.peek n) := by
  simp only [admitCall, indexOf_eq_some.mpr rfl]

theorem admitCall_poke (n : Nat) (v : Byte) : admitCall (.poke n v.toNat) = admitTxn (.poke n v) := by
  simp only [admitCall, indexOf_eq_some.mpr rfl, byteOf_eq_some.mpr rfl]

theorem admitCall_receiveFromDevice (b : Byte) : admitCall (.receiveFromDevice b.toNat) = admitTxn (.rx b) := by
  simp only [admitCall, byteOf_eq_some.mpr rfl]

/-- Settles O33: a word or a call is admitted as the transaction it is, and the step carries that out. -/
theorem stepRunsDecodedTransaction : Obligations.StepRunsDecodedTransaction := by
  refine ⟨fun w rest s i hs hw => step_of_run hs (admitWord_eq_run.mpr hw), fun x c s hc => ?_, fun nbits w s i hw => ?_⟩
  · refine step_present_of_run (r := .call c) (i := x.toInstr) ?_ s
    obtain ⟨n, rfl, rfl⟩ | ⟨n, v, rfl, rfl⟩ | ⟨b, rfl, rfl⟩ | ⟨p, rfl, rfl⟩ := hc
    · exact admitCall_peek n
    · exact admitCall_poke n v
    · exact admitCall_receiveFromDevice b
    · rfl
  · exact step_present_of_run (r := .word _) (admitWord_eq_run.mpr (Decoded.toOption_eq_some.mp hw)) s

/-- Settles O36: R44's list is where the decoder answers RESERVED, and the boundary refuses a word so answered. -/
theorem reservedWordsAreRefused : Obligations.ReservedWordsAreRefused := by
  refine ⟨fun w => decodeWord_toOption_eq_none, fun w s hw => ?_⟩
  obtain ⟨why, hwhy⟩ := decodeWord_of_isReservedWord (decodeWord_toOption_eq_none.mp hw)
  refine ⟨why, step_present_of_refuse ?_ s⟩
  simp only [admission, admitWord, decodeNumber_toNat, hwhy]

/-! ## The ports -/

theorem admission_ports_of_nil {p : PortIn} (h : portRequests p = []) : admission (.ports p) = .idle := by
  simp only [admission, admitPorts, h]

theorem admission_ports_of_singleton {p : PortIn} {x : Txn} (h : portRequests p = [x]) :
    admission (.ports p) = .run x.toInstr := by
  simp only [admission, admitPorts, h, admitTxn]

theorem admission_ports_of_two_le {p : PortIn} (h : 2 ≤ (portRequests p).length) :
    admission (.ports p) = .refuse .simultaneousRequests := by
  cases hp : portRequests p with
  | nil => simp [hp] at h
  | cons x xs =>
    cases xs with
    | nil => simp [hp] at h
    | cons y ys => simp only [admission, admitPorts, hp]

/-- Settles O38: the requests on the ports are as many as the lines asserted, and the boundary answers by how many they are. -/
theorem portStepAdmitsOneRequest : Obligations.PortStepAdmitsOneRequest := by
  intro p s
  rw [← portRequests_length p]
  refine ⟨fun h => step_present_of_refuse (admission_ports_of_two_le h) s, fun h => ?_, fun h => ?_⟩
  · exact step_present_of_idle (admission_ports_of_nil (List.length_eq_zero_iff.mp h)) s
  · obtain ⟨x, hx⟩ := List.length_eq_one_iff.mp h
    exact ⟨x, hx, step_present_of_run (admission_ports_of_singleton hx) s⟩

/-- A port step with at most one line asserted carries out the requests on the ports, which are none or one. -/
theorem step_ports {p : PortIn} (h : assertedLines p ≤ 1) (s : State) :
    step (present (.ports p) s) = .next (applyTxns (portRequests p) s) := by
  obtain ⟨-, hidle, hone⟩ := portStepAdmitsOneRequest p s
  obtain h0 | h1 : assertedLines p = 0 ∨ assertedLines p = 1 := by omega
  · rw [hidle h0, List.length_eq_zero_iff.mp ((portRequests_length p).trans h0)]; rfl
  · obtain ⟨x, hx, hstep⟩ := hone h1
    rw [hstep, hx, exec_toInstr]; rfl

theorem decodeIndex_eq_data {a : Nat} : decodeIndex a = .data ↔ a = 0 := by
  obtain rfl | rfl | rfl | rfl | ⟨h, h'⟩ := decodeIndex_cases a
  case inr.inr.inr.inr => simp [h']; omega
  all_goals decide

/-- The event the output ports show: that of a byte written to Data, and no other (R64). -/
theorem portOut_events (p : PortIn) (s : State) :
    (portOut p s).events = if portWritesData p then [outboundEvent s.sink p.hWdata] else [] := by
  cases hw : portWritesData p <;> cases hs : s.sink <;> simp [PortOut.events, portOut, outboundEvent, hw, hs]

/-- `tx_valid` is high exactly when the event shown is `Tx`, `drop_valid` exactly when it is `Drop`. -/
theorem portOut_valid (p : PortIn) (s : State) :
    ((portOut p s).txValid = true ↔ (portOut p s).events = [.tx p.hWdata]) ∧
      ((portOut p s).dropValid = true ↔ (portOut p s).events = [.drop p.hWdata]) := by
  rw [portOut_events]
  cases hw : portWritesData p <;> cases hs : s.sink <;> simp [portOut, outboundEvent, hw, hs]

/-- With at most one line asserted, no line is or only one is. -/
theorem lines_of_assertedLines_le_one {p : PortIn} (h : assertedLines p ≤ 1) :
    (p.hRd = false ∧ p.hWr = false ∧ p.rxValid = false ∧ p.sinkSet = false) ∨
    (p.hRd = true ∧ p.hWr = false ∧ p.rxValid = false ∧ p.sinkSet = false) ∨
    (p.hRd = false ∧ p.hWr = true ∧ p.rxValid = false ∧ p.sinkSet = false) ∨
    (p.hRd = false ∧ p.hWr = false ∧ p.rxValid = true ∧ p.sinkSet = false) ∨
    (p.hRd = false ∧ p.hWr = false ∧ p.rxValid = false ∧ p.sinkSet = true) := by
  unfold assertedLines at h
  generalize p.hRd = rd, p.hWr = wr, p.rxValid = rx, p.sinkSet = sk at h ⊢
  revert rd wr rx sk
  decide

/-- The rendering's next state, its muxes in terms of the block's own operations. -/
theorem portNext_eq (p : PortIn) (s : State) : portNext p s =
    { pending := if p.rxValid then some p.rxData else if p.hRd && p.hAddr == 0 then none else s.pending
      sink := if p.sinkSet then p.sinkPresent else s.sink
      trace := s.trace ++ if p.hWr && p.hAddr == 0 then [outboundEvent s.sink p.hWdata] else []
      returned := s.returned ++ if p.hRd then [readValue (decodeIndex p.hAddr) s] else []
      requests := s.requests } := by
  have hread : (portOut p s).hRdata.toList = if p.hRd then [readValue (decodeIndex p.hAddr) s] else [] := by
    cases hrd : p.hRd <;> simp [portOut, hrd, portReadMux_eq]
  rw [portNext, portOut_events, hread]; rfl

/-- With at most one line asserted the rendering gives what the form on that line does (R39). -/
theorem portNext_eq_applyTxns {p : PortIn} (h : assertedLines p ≤ 1) (s : State) :
    portNext p s = applyTxns (portRequests p) s := by
  rw [portNext_eq, portRequests]
  obtain ⟨hrd, hwr, hrx, hsk⟩ | ⟨hrd, hwr, hrx, hsk⟩ | ⟨hrd, hwr, hrx, hsk⟩ | ⟨hrd, hwr, hrx, hsk⟩ |
    ⟨hrd, hwr, hrx, hsk⟩ := lines_of_assertedLines_le_one h
  · simp [hrd, hwr, hrx, hsk, applyTxns]
  · simp [hrd, hwr, hrx, hsk, applyTxns, applyTxn, hostRead_eq, decodeIndex_eq_data]
  · by_cases ha : p.hAddr = 0 <;>
      simp [hrd, hwr, hrx, hsk, applyTxns, applyTxn, hostWrite_eq, sendToDevice, State.emit, decodeIndex_eq_data, ha]
  · simp [hrd, hwr, hrx, hsk, applyTxns, applyTxn, receiveFromDevice_eq]
  · simp [hrd, hwr, hrx, hsk, applyTxns, applyTxn, setRegistration_eq]

/-- Settles O39: step and rendering both give what the form on the asserted line does; the rest is read off the output ports. -/
theorem portRenderingAgreesWithStep : Obligations.PortRenderingAgreesWithStep := by
  intro p s h
  obtain ⟨htx, hdrop⟩ := portOut_valid p s
  refine ⟨_, (step_ports h s).trans (congrArg _ (portNext_eq_applyTxns h s).symm), rfl, rfl, ?_, ?_, ?_, rfl⟩
  · rw [htx, portNext, List.append_cancel_left_eq]
  · rw [hdrop, portNext, List.append_cancel_left_eq]
  · cases hrd : p.hRd <;> simp [portOut, hrd]

/-! ## The host's scripts -/

/-- A loop that ends leaves the state its last Status read left, on a Full buffer. -/
theorem pollLoop_eq_some {schedule : List (List Txn)} {s t : State} (h : pollLoop schedule s = some t) :
    ∃ (u : State) (b : Byte), u.pending = some b ∧ t = u.returnByte 0x08#8 := by
  induction schedule generalizing s with
  | nil =>
    rw [pollLoop_eq] at h
    cases hp : s.pending with
    | none => simp [hp] at h
    | some b => exact ⟨s, b, hp, by simpa [hp, eq_comm] using h⟩
  | cons now later ih =>
    rw [pollLoop_eq] at h
    cases hp : s.pending with
    | none => exact ih (by simpa [hp] using h)
    | some b => exact ⟨s, b, hp, by simpa [hp, eq_comm] using h⟩

/-- A read of Data, with the buffer's contents known. -/
theorem applyTxn_peek_zero (s : State) :
    applyTxn (.peek 0) s = { s with pending := none, returned := s.returned ++ [s.pending.getD 0x00#8] } :=
  hostRead_eq .data s

/-- A Status read of a Full buffer returns 8 (a pending 0 included, D5). -/
theorem applyTxn_peek_one_of_full {s : State} {b : Byte} (h : s.pending = some b) :
    applyTxn (.peek 1) s = s.returnByte 0x08#8 := by
  have hstat : status s = 0x08#8 := by simp [status_eq, h]
  rw [← hstat]; rfl

theorem pollLoop_of_full {s : State} {b : Byte} (h : s.pending = some b) (schedule : List (List Txn)) :
    pollLoop schedule s = some (s.returnByte 0x08#8) := by
  rw [pollLoop_eq, if_neg (by simp [h])]

/-- Settles O47: one Status read on a Full buffer, by induction the state a loop ends in, and the reads and writes of Data. -/
theorem pseudoTransactionsExpand : Obligations.PseudoTransactionsExpand := by
  refine ⟨fun schedule s b hp => ⟨pollLoop_of_full hp schedule, ?_, ?_⟩, fun schedule s t h => ?_, fun waits s hp => ?_,
    fun waits s v => rfl⟩
  · rw [pollLoop_of_full hp, ← applyTxn_peek_one_of_full hp]; rfl
  · calc applyTxns (Pseudo.getc.expand 0) s
        = applyTxn (.peek 0) (applyTxn (.peek 1) s) := rfl
      _ = applyTxn (.peek 0) (s.returnByte 0x08#8) := by rw [applyTxn_peek_one_of_full hp]
      _ = _ := by simp [applyTxn_peek_zero, hp, State.returnByte]
  · obtain ⟨u, b, hu, rfl⟩ := pollLoop_eq_some h
    exact ⟨by simp, b, hu, by simp [applyTxn_peek_zero, hu]⟩
  · calc applyTxns (Pseudo.trygetc.expand waits) s
        = applyTxn (.peek 0) s := rfl
      _ = _ := by simp [applyTxn_peek_zero, hp]

end Sys2Proof.Machine

/-! PROOF. The inbound path: an RX by its word, what it does to the state, and the presence bit of Status after it
(40_device_inbound.md R49; 70_reset_and_hazards.md R87). -/

namespace Sys2Proof.Machine

/-- The word of an RX is 0x30000 and the byte (R46), and decodes to that RX. -/
theorem decodeWord_rx_number (b : Byte) : decodeWord (BitVec.ofNat 20 (0x30000 + b.toNat)) = .instr (.rx b) := by
  have hword : (encode (.rx b)).toNat = 0x30000 + b.toNat := wordsAreThoseOfTheSyntaxTable (.rx b) rfl
  rw [← hword, BitVec.ofNat_toNat, BitVec.setWidth_eq]
  exact decodeWord_encode rfl

/-- Everything an RX does, from every state (R49). -/
theorem exec_rx (b : Byte) (s : State) : exec (.rx b) s = .next { s with pending := some b } := exec_eq (.rx b) s

/-- A second inbound byte leaves nothing of the first (R87). -/
theorem applyTxn_rx_applyTxn_rx (a b : Byte) (s : State) :
    applyTxn (.rx b) (applyTxn (.rx a) s) = applyTxn (.rx b) s := by
  simp only [applyTxn, receiveFromDevice_eq]

/-- Status bit 3 is the presence of a byte, whatever the byte (R53; for the byte 0, D5). -/
theorem status_getLsbD_three (s : State) : (status s).getLsbD 3 = s.pending.isSome := by
  rw [status_eq]
  cases s.pending with
  | none => rfl
  | some b => simp

/-- Settles O15: its word is the encoder's, and an RX only sets the buffer to its byte. -/
theorem rxOverwritesBuffer : Obligations.RxOverwritesBuffer := by
  refine ⟨decodeWord_rx_number, fun b s => ⟨_, exec_rx b s, rfl, rfl, rfl, rfl, rfl, ?_, ?_⟩, fun a b s => ?_⟩
  · rw [readValue_status, status_getLsbD_three]; rfl
  · rw [exec_rx]
  · rw [execAll_eq, execAll_eq]
    exact congrArg Host.Outcome.next (applyTxn_rx_applyTxn_rx a b s)

end Sys2Proof.Machine

/-! PROOF. The host reads: a read of any register but Data returns one byte and changes nothing else, RD_DATA empties the buffer,
and a run without RD_DATA keeps a Full buffer Full with the newest byte (41_host_read.md R51 to R55, R57; 20_memory.md R30). -/

namespace Sys2Proof.Machine

/-- A run goes on from the next state its first transaction answers. -/
theorem execAll_cons_of_next {i : Instr} {s t : State} (h : exec i s = .next t) (is : List Instr) :
    execAll (i :: is) s = execAll is t := by
  simp only [execAll, h]

/-! ## Each read, from every state -/

/-- A read whose index does not select Data returns the register's value and changes nothing else (R30). -/
theorem exec_of_peek_ne_data {i : Instr} {a : Nat} (hi : i.toTxn = .peek a) (ha : decodeIndex a ≠ .data) (s : State) :
    exec i s = .next (s.returnByte (readValue (decodeIndex a) s)) := by
  rw [exec_eq, hi]
  simp [applyTxn, hostRead_eq, ha, State.returnByte]

theorem exec_rdStatus (s : State) :
    exec .rdStatus s = .next (s.returnByte (if s.pending = none then 0x00#8 else 0x08#8)) := by
  rw [exec_of_peek_ne_data (a := 1) rfl (by decide), decodeIndex_one, readValue_status, status_eq]

theorem exec_rdCmd (s : State) : exec .rdCmd s = .next (s.returnByte 11#8) :=
  exec_of_peek_ne_data (a := 2) rfl (by decide) s

theorem exec_rdCtrl (s : State) : exec .rdCtrl s = .next (s.returnByte 28#8) :=
  exec_of_peek_ne_data (a := 3) rfl (by decide) s

theorem exec_rdOther {a : Nat} (ha : 4 ≤ a) (s : State) : exec (.rdOther a) s = .next (s.returnByte 0x00#8) := by
  have hdecode : decodeIndex a = .unmapped := decodeIndex_of_four_le ha
  rw [exec_of_peek_ne_data (i := .rdOther a) rfl (by simp [hdecode]), hdecode, readValue_unmapped]

theorem exec_rdData (s : State) :
    exec .rdData s = .next { s with pending := none, returned := s.returned ++ [s.pending.getD 0x00#8] } := by
  rw [exec_eq]
  exact congrArg Host.Outcome.next (applyTxn_peek_zero s)

/-- Settles O3: the read of Data with the buffer's contents, and again on the Empty buffer it leaves. -/
theorem rdDataReturnsByteAndEmpties : Obligations.RdDataReturnsByteAndEmpties := by
  refine ⟨decode_word_rdData, fun s => ⟨_, exec_rdData s, ?_, rfl, rfl, rfl, rfl, ?_, exec_rdData _⟩⟩
  · cases s.pending <;> rfl
  · rw [readValue_status, status_getLsbD_three]; rfl

/-! ## Status -/

/-- The bits of Status other than bit 3 are hardwired 0 (R53). -/
theorem status_other_bits (s : State) : (status s).extractLsb' 4 4 = 0#4 ∧ (status s).extractLsb' 0 3 = 0#3 := by
  rw [status_eq]
  split <;> decide

/-- Status is a function of the buffer's presence alone, whatever the byte (R53). -/
theorem status_congr {s t : State} (h : s.pending.isSome = t.pending.isSome) : status s = status t := by
  simp only [status, dataAvailable, h]

/-- Settles O4: by the two values of the status mux and its bits, and the read that returns it. -/
theorem statusMuxIsPresenceInBitThree : Obligations.StatusMuxIsPresenceInBitThree :=
  ⟨status_eq, fun s => ⟨status_getLsbD_three s, status_other_bits s⟩, fun _ _ => status_congr, exec_rdStatus⟩

/-- Settles O5: by induction on the number of reads, each leaving the buffer that the next one answers from. -/
theorem repeatedStatusReadsAgree : Obligations.RepeatedStatusReadsAgree := by
  refine ⟨decode_word_rdStatus, fun n s => ?_⟩
  induction n generalizing s with
  | zero => simp
  | succ n ih =>
    rw [List.replicate_succ, execAll_cons_of_next (exec_rdStatus s), ih, State.returnByte_returned, List.append_assoc]
    rfl

/-! ## Command and Control -/

/-- After any list of host writes the host sees what it saw before them (R63). -/
theorem hostView_applyTxns_of_isWrite {ws : List Instr} (h : ∀ i ∈ ws, isWrite i = true) (s : State) :
    (applyTxns (ws.map Instr.toTxn) s).hostView = s.hostView := by
  have hnil : (ws.filter fun i => !(isWrite i || isRegistration i)) = [] :=
    List.filter_eq_nil_iff.mpr fun i hi => by simp [h i hi]
  have hview := hostView_applyTxns_filter ws (rfl : s.hostView = s.hostView)
  rw [hnil] at hview
  exact hview.symm

/-- Settles O6: the two reads in every state, and no write returns a byte. -/
theorem commandAndControlReadConstants : Obligations.CommandAndControlReadConstants := by
  refine ⟨decode_word_rdCmd, decode_word_rdCtrl, exec_rdCmd, exec_rdCtrl, fun ws s hws => ⟨_, execAll_eq ws s, ?_⟩⟩
  obtain ⟨-, hreturned⟩ := Prod.mk.inj (hostView_applyTxns_of_isWrite hws s)
  rw [← hreturned]
  exact ⟨exec_rdCmd _, exec_rdCtrl _⟩

/-! ## Unmapped indices -/

/-- The number of an encodable transaction's word decodes to that transaction (R40, R43). -/
theorem decodeWord_ofNat_of_encode {i : Instr} {n : Nat} (hi : i.encodable = true) (hn : (encode i).toNat = n) :
    decodeWord (BitVec.ofNat 20 n) = .instr i := by
  rw [← hn, BitVec.ofNat_toNat, BitVec.setWidth_eq, decodeWord_encode hi]

/-- Settles O7: the unmapped read, its word by R46's table, and that a word decodes only to an encodable transaction. -/
theorem unmappedReadsReturnZero : Obligations.UnmappedReadsReturnZero := by
  refine ⟨fun a s ha => ⟨decodeIndex_of_four_le ha, exec_rdOther ha s⟩, fun a ha hle => ?_, fun w a h => ?_⟩
  · have henc : (Instr.rdOther a).encodable = true := Instr.encodable_rdOther.mpr ⟨ha, by omega⟩
    exact decodeWord_ofNat_of_encode henc (wordsAreThoseOfTheSyntaxTable _ henc)
  · obtain ⟨henc, -⟩ := encodeOfDecode w _ h
    obtain ⟨ha, hlt⟩ := Instr.encodable_rdOther.mp henc
    exact ⟨ha, by omega⟩

/-! ## Polling a Full buffer -/

/-- A Full buffer after a transaction other than RD_DATA holds the byte just pushed, or else the one it held (R11, R49). -/
theorem txnPending_some_of_ne_rdData {i : Instr} (hwf : i.wf = true) (hi : i ≠ .rdData) (b : Byte) :
    txnPending (some b) i.toTxn = some ((rxByte i).getD b) := by
  cases ht : touchesBuffer i with
  | true =>
    obtain rfl | ⟨c, rfl⟩ := touchesBuffer_eq_true.mp ht
    · exact absurd rfl hi
    · rfl
  | false =>
    rw [txnPending_of_not_touchesBuffer hwf ht]
    cases i <;> simp [touchesBuffer, rxByte] at ht ⊢

/-- From a Full buffer a run without RD_DATA ends with the newest byte pushed, or the old one if none was (R57, R89). -/
theorem applyTxns_pending_of_full {js : List Instr} {s : State} {b : Byte} (hp : s.pending = some b)
    (hjs : ∀ i ∈ js, i.wf = true ∧ i ≠ .rdData) :
    (applyTxns (js.map Instr.toTxn) s).pending = some ((js.filterMap rxByte).getLastD b) := by
  induction js generalizing s b with
  | nil => exact hp
  | cons i js ih =>
    obtain ⟨⟨hwf, hi⟩, hjs⟩ := List.forall_mem_cons.mp hjs
    have hstep : (applyTxn i.toTxn s).pending = some ((rxByte i).getD b) := by
      rw [applyTxn_pending, hp, txnPending_some_of_ne_rdData hwf hi]
    rw [List.map_cons, applyTxns, ih hstep hjs]
    cases hrx : rxByte i with
    | none => rw [List.filterMap_cons_none hrx]; rfl
    | some c => rw [List.filterMap_cons_some hrx, List.getLastD_cons]; rfl

/-- Settles O18: the run leaves the newest byte pending, which the two reads show as presence and then return. -/
theorem pollThenReadGetsNewestByte : Obligations.PollThenReadGetsNewestByte := by
  intro js s b hp hjs
  have hpending := applyTxns_pending_of_full hp hjs
  refine ⟨_, execAll_eq js s, by rw [State.isFull, hpending]; rfl, ?_⟩
  rw [execAll_cons_of_next (exec_rdStatus _), execAll_cons_of_next (exec_rdData _), execAll_nil]
  simp [State.returnByte, hpending]

end Sys2Proof.Machine

/-! PROOF. The host writes: a write to any register but Data does nothing at all, WR_DATA appends the one event the registration
decides, writes leave what the host reads alone, and reads and inbound bytes leave the outbound side alone (42_host_write.md R58
to R63; 43_device_outbound.md R64, R68). -/

namespace Sys2Proof.Machine

/-! ## Each write, from every state -/

/-- A write whose index does not select Data is accepted and changes nothing (R59 to R62). -/
theorem exec_of_poke_ne_data {i : Instr} {a : Nat} {v : Byte} (hi : i.toTxn = .poke a v) (ha : decodeIndex a ≠ .data)
    (s : State) : exec i s = .next s := by
  rw [exec_eq, hi, applyTxn, hostWrite_eq, if_neg ha]

theorem exec_wrData (v : Byte) (s : State) : exec (.wrData v) s = .next (s.emit (outboundEvent s.sink v)) :=
  exec_eq (.wrData v) s

/-- Writes to Data append their events in write order, all by the one registration, which none of them changes (R58). -/
theorem execAll_map_wrData (vs : List Byte) (s : State) :
    execAll (vs.map Instr.wrData) s = .next { s with trace := s.trace ++ vs.map (outboundEvent s.sink) } := by
  induction vs generalizing s with
  | nil => simp
  | cons v vs ih =>
    rw [List.map_cons, execAll_cons_of_next (exec_wrData v s), ih, State.emit_trace, List.append_assoc]
    rfl

/-- Settles O9: the word by R46's table, one event of each write, by induction those of `n` writes, and the write carried out
before the attachment. -/
theorem wrDataForwardsOrDrops : Obligations.WrDataForwardsOrDrops := by
  refine ⟨fun v => ?_, exec_wrData, execAll_map_wrData, fun v s hs => ?_⟩
  · exact decodeWord_ofNat_of_encode rfl (wordsAreThoseOfTheSyntaxTable (.wrData v) rfl)
  · rw [execAll_cons_of_next (exec_wrData v s), hs]
    exact execAll_eq [.sinkAttach] _

/-- Settles O10: the three words by R46's table, and three writes whose index does not select Data. -/
theorem statusCommandControlWritesIgnored : Obligations.StatusCommandControlWritesIgnored := by
  refine ⟨fun v => ⟨?_, ?_, ?_⟩, fun v s => ⟨?_, ?_, ?_⟩⟩
  · exact decodeWord_ofNat_of_encode rfl (wordsAreThoseOfTheSyntaxTable (.wrStatus v) rfl)
  · exact decodeWord_ofNat_of_encode rfl (wordsAreThoseOfTheSyntaxTable (.wrCmd v) rfl)
  · exact decodeWord_ofNat_of_encode rfl (wordsAreThoseOfTheSyntaxTable (.wrCtrl v) rfl)
  · exact exec_of_poke_ne_data (a := 1) rfl (by decide) s
  · exact exec_of_poke_ne_data (a := 2) rfl (by decide) s
  · exact exec_of_poke_ne_data (a := 3) rfl (by decide) s

/-- Settles O11: an unmapped index does not select Data, and a word decodes only to an encodable transaction, whose word is
the one of R46's table. -/
theorem unmappedWritesIgnored : Obligations.UnmappedWritesIgnored := by
  refine ⟨fun a v s ha => ?_, fun a v ha hle => ?_, fun w a v h => ?_⟩
  · have hdecode : decodeIndex a = .unmapped := decodeIndex_of_four_le ha
    exact ⟨hdecode, exec_of_poke_ne_data (i := .wrOther a v) rfl (by simp [hdecode]) s⟩
  · have henc : (Instr.wrOther a v).encodable = true := Instr.encodable_wrOther.mpr ⟨ha, by omega⟩
    exact decodeWord_ofNat_of_encode henc (wordsAreThoseOfTheSyntaxTable _ henc)
  · obtain ⟨henc, -⟩ := encodeOfDecode w _ h
    obtain ⟨ha, hlt⟩ := Instr.encodable_wrOther.mp henc
    exact ⟨ha, by omega⟩

/-! ## Writes do not reach the reads -/

/-- The registration a form leaves, given the one before it (R13). -/
def txnSink (sink : Bool) : Txn → Bool
  | .sinkSet present => present
  | _ => sink

theorem applyTxn_sink (x : Txn) (s : State) : (applyTxn x s).sink = txnSink s.sink x := by
  cases x with
  | peek a => exact hostRead_sink _ s
  | poke a v => exact hostWrite_sink _ v s
  | rx b => rfl
  | sinkSet present => rfl

theorem applyTxns_sink_of_isWrite {ws : List Instr} (h : ∀ i ∈ ws, isWrite i = true) (s : State) :
    (applyTxns (ws.map Instr.toTxn) s).sink = s.sink := by
  induction ws generalizing s with
  | nil => rfl
  | cons i ws ih =>
    obtain ⟨hi, hws⟩ := List.forall_mem_cons.mp h
    obtain ⟨a, v, hpoke⟩ := isWrite_eq_true.mp hi
    rw [List.map_cons, applyTxns, ih hws, applyTxn_sink, hpoke]
    rfl

/-- Settles O13: writes leave the host's view and the registration, and the buffer decides what every register reads as. -/
theorem writesLeaveReadValuesAlone : Obligations.WritesLeaveReadValuesAlone := by
  intro ws s t hws h
  rw [execAll_eq] at h
  obtain rfl := Host.Outcome.next.inj h
  obtain ⟨hpending, hreturned⟩ := Prod.mk.inj (hostView_applyTxns_of_isWrite hws s)
  exact ⟨hpending, applyTxns_sink_of_isWrite hws s, hreturned, readValue_congr hpending⟩

/-! ## The outbound side of the block -/

/-- All there is of the outbound side: the registration and the trace (R13, R14). -/
def State.outboundView (s : State) : Bool × List Event := (s.sink, s.trace)

/-- The outbound side after a transaction depends on the outbound side before it alone (R68). -/
theorem outboundView_applyTxn_congr (s u : State) (h : u.outboundView = s.outboundView) (x : Txn) :
    (applyTxn x u).outboundView = (applyTxn x s).outboundView := by
  obtain ⟨hsink, htrace⟩ := Prod.mk.inj h
  simp only [State.outboundView, applyTxn_sink, applyTxn_trace, hsink, htrace]

/-- A transaction that is neither a write nor a registration is a read or an inbound byte (R38). -/
theorem toTxn_of_inbound {i : Instr} (h : (isWrite i || isRegistration i) = false) :
    (∃ a, i.toTxn = .peek a) ∨ ∃ b, i.toTxn = .rx b := by
  unfold isWrite isRegistration at h
  cases hx : i.toTxn <;> simp [hx] at h ⊢

/-- A host read or an inbound byte changes nothing on the outbound side (R63, R68). -/
theorem outboundView_applyTxn_of_inbound (i : Instr) (h : (isWrite i || isRegistration i) = false) (s : State) :
    (applyTxn i.toTxn s).outboundView = s.outboundView := by
  obtain ⟨a, hx⟩ | ⟨b, hx⟩ := toTxn_of_inbound h <;>
    simp [State.outboundView, applyTxn_sink, applyTxn_trace, hx, txnSink, txnEvents]

/-- A view of the block that each form takes from itself alone is, after a run, what it is after that run with transactions
that do not change it deleted. -/
theorem view_applyTxns_filter {α : Type} {view : State → α} {keep : Instr → Bool}
    (hcongr : ∀ s u : State, view u = view s → ∀ x, view (applyTxn x u) = view (applyTxn x s))
    (hskip : ∀ i, keep i = false → ∀ s, view (applyTxn i.toTxn s) = view s) (js : List Instr) {s u : State}
    (h : view u = view s) :
    view (applyTxns ((js.filter keep).map Instr.toTxn) u) = view (applyTxns (js.map Instr.toTxn) s) := by
  induction js generalizing s u with
  | nil => exact h
  | cons i js ih =>
    cases hi : keep i with
    | true =>
      rw [List.filter_cons_of_pos hi]
      exact ih (hcongr s u h i.toTxn)
    | false =>
      rw [List.filter_cons_of_neg (by simp [hi])]
      exact ih (h.trans (hskip i hi s).symm)

/-- Settles O26: the deleted transactions change nothing on the outbound side, and the others read nothing but it. -/
theorem outboundTraceIgnoresInboundSide : Obligations.OutboundTraceIgnoresInboundSide := by
  intro js s t h
  rw [execAll_eq] at h
  obtain rfl := Host.Outcome.next.inj h
  have hview := view_applyTxns_filter outboundView_applyTxn_congr outboundView_applyTxn_of_inbound js
    (rfl : s.outboundView = s.outboundView)
  exact ⟨_, execAll_eq _ s, Prod.mk.inj hview⟩

end Sys2Proof.Machine

/-! PROOF. The registration of a sink: both transactions set it to the value they carry, whatever it was before, and nothing else
(43_device_outbound.md R66, R67). -/

namespace Sys2Proof.Machine

/-- A registration is the environment's alone to issue (D6). -/
theorem instrIssuer_of_sinkSet {i : Instr} {present : Bool} (hi : i.toTxn = .sinkSet present) :
    instrIssuer i = .environment :=
  congrArg txnIssuer hi

/-- Everything a registration does, from every state, whether or not there was a sink (R66, R67). -/
theorem exec_of_sinkSet {i : Instr} {present : Bool} (hi : i.toTxn = .sinkSet present) (s : State) :
    exec i s = .next { s with sink := present } := by
  rw [exec_eq, hi]
  rfl

/-- Settles O20: its word by R46's table, and what a registration of a sink does. -/
theorem sinkAttachRegistersSink : Obligations.SinkAttachRegistersSink :=
  ⟨decodeWord_ofNat_of_encode rfl (wordsAreThoseOfTheSyntaxTable .sinkAttach rfl), instrIssuer_of_sinkSet rfl,
    exec_of_sinkSet rfl⟩

/-- Settles O21: its word by R46's table, and what the removal of a registration does. -/
theorem sinkDetachUnregistersSink : Obligations.SinkDetachUnregistersSink :=
  ⟨decodeWord_ofNat_of_encode rfl (wordsAreThoseOfTheSyntaxTable .sinkDetach rfl), instrIssuer_of_sinkSet rfl,
    exec_of_sinkSet rfl⟩

end Sys2Proof.Machine

/-! PROOF. Nothing raises anything inside the block: a run of transactions answers a next state, a step on an admitted request
takes it, a call is refused only for its operands' types, and a read and an inbound byte presented together are taken in one order
or the other (60_exceptions.md R70, R71, R73). -/

namespace Sys2Proof.Machine

/-! ## Admitted requests -/

/-- The boundary admits a request by asking nothing of the block or a transaction of it. -/
theorem requestAdmitted_eq_true {r : Request} :
    requestAdmitted r = true ↔ admission r = .idle ∨ ∃ i, admission r = .run i := by
  unfold requestAdmitted
  cases admission r <;> simp

theorem allAdmitted_setRequests_cons (s : State) (r : Request) (rest : List Request) :
    (s.setRequests (r :: rest)).allAdmitted = (requestAdmitted r && (s.setRequests rest).allAdmitted) := rfl

/-- Whether the waiting requests are admitted depends on them alone. -/
theorem allAdmitted_congr {s t : State} (h : s.requests = t.requests) : s.allAdmitted = t.allAdmitted := by
  rw [State.allAdmitted, h, State.allAdmitted]

/-- A request that asks nothing of the block is taken off and changes nothing else (log 3). -/
theorem step_of_idle {s : State} {r : Request} {rest : List Request} (hs : s.requests = r :: rest)
    (h : admission r = .idle) : step s = .next (s.setRequests rest) := by
  simp only [step, fetch, hs, h]

/-- A step on an admitted request answers a next state, and takes that request alone (R70). -/
theorem step_of_requestAdmitted {s : State} {r : Request} {rest : List Request} (hs : s.requests = r :: rest)
    (hr : requestAdmitted r = true) : ∃ t, step s = .next t ∧ t.requests = rest := by
  obtain hidle | ⟨i, hrun⟩ := requestAdmitted_eq_true.mp hr
  · exact ⟨_, step_of_idle hs hidle, rfl⟩
  · exact ⟨_, (step_of_run hs hrun).trans (exec_eq i _), applyTxn_requests _ _⟩

/-- Settles O30: with no request waiting the step is idle, and an admitted one is taken, which leaves the admitted rest. -/
theorem stepKeepsRequestsAdmitted : Obligations.StepKeepsRequestsAdmitted := by
  intro s hadm
  cases hs : s.requests with
  | nil => exact ⟨s, noRequestNoChange s hs, hadm, hs⟩
  | cons r rest =>
    rw [← s.setRequests_self, hs, allAdmitted_setRequests_cons, Bool.and_eq_true] at hadm
    obtain ⟨hr, hrest⟩ := hadm
    obtain ⟨t, hstep, ht⟩ := step_of_requestAdmitted hs hr
    exact ⟨t, hstep, (allAdmitted_congr ht).trans hrest, ht⟩

/-! ## Runs of transactions -/

/-- Settles O22: a run is the run of its forms, none of which fails, takes a request or adds one. -/
theorem everyRunOfTransactionsCompletes : Obligations.EveryRunOfTransactionsCompletes :=
  fun js s => ⟨_, execAll_eq js s, applyTxns_requests _ s⟩

/-! ## A read and an inbound byte presented together -/

/-- With nothing on the left there is nothing to interleave. -/
theorem Interleaving.eq_of_nil_left {α : Type} {ys zs : List α} (h : Interleaving [] ys zs) : zs = ys := by
  induction ys generalizing zs with
  | nil => cases h; rfl
  | cons y ys ih =>
    cases h with
    | right h => rw [ih h]

theorem Interleaving.eq_of_nil_right {α : Type} {xs zs : List α} (h : Interleaving xs [] zs) : zs = xs := by
  induction xs generalizing zs with
  | nil => cases h; rfl
  | cons x xs ih =>
    cases h with
    | left h => rw [ih h]

/-- Two transactions have two orders (R33). -/
theorem Interleaving.singletons {α : Type} {x y : α} {zs : List α} (h : Interleaving [x] [y] zs) :
    zs = [x, y] ∨ zs = [y, x] := by
  cases h with
  | left h => exact .inl (congrArg _ h.eq_of_nil_left)
  | right h => exact .inr (congrArg _ h.eq_of_nil_right)

/-- Settles O28: each order run on its own, and the two orders of two transactions. -/
theorem simultaneousReadAndReceiveHaveTwoOutcomes : Obligations.SimultaneousReadAndReceiveHaveTwoOutcomes := by
  intro b s
  refine ⟨?_, ?_, fun zs h => h.singletons⟩
  · rw [execAll_cons_of_next (exec_rdData s), execAll_cons_of_next (exec_rx b _), execAll_nil]
    cases s.pending <;> rfl
  · rw [execAll_cons_of_next (exec_rx b s), execAll_cons_of_next (exec_rdData _), execAll_nil]
    rfl

/-! ## Calls outside their types -/

/-- A whole number that is not negative is an index (D2). -/
theorem exists_index_of_not_neg {a : Int} (h : ¬ a < 0) : ∃ n : Nat, a = n :=
  Int.eq_ofNat_of_zero_le (Int.not_lt.mp h)

/-- A whole number inside 0..255 is the value of a byte (D1). -/
theorem exists_byte_of_in_range {v : Int} (h : ¬ (v < 0 ∨ 255 < v)) : ∃ b : Byte, v = b.toNat := by
  obtain ⟨b, hb⟩ := Option.ne_none_iff_exists'.mp (mt byteOf_eq_none.mp h)
  exact ⟨b, byteOf_eq_some.mp hb⟩

theorem ofInt_byte_value (b : Byte) : BitVec.ofInt 8 b.toNat = b := by
  rw [BitVec.ofInt_natCast, BitVec.ofNat_toNat, BitVec.setWidth_eq]

/-! The index of a call is checked before its value (log 7). -/

theorem admitCall_peek_of_neg {a : Int} (ha : a < 0) : admitCall (.peek a) = .refuse (.notAnIndex a) := by
  simp only [admitCall, indexOf_eq_none.mpr ha]

theorem admitCall_poke_of_neg {a : Int} (ha : a < 0) (v : Int) : admitCall (.poke a v) = .refuse (.notAnIndex a) := by
  simp only [admitCall, indexOf_eq_none.mpr ha]

theorem admitCall_poke_of_not_byte (n : Nat) {v : Int} (hv : v < 0 ∨ 255 < v) :
    admitCall (.poke n v) = .refuse (.notAByte v) := by
  simp only [admitCall, indexOf_eq_some.mpr rfl, byteOf_eq_none.mpr hv]

theorem admitCall_receiveFromDevice_of_not_byte {c : Int} (hc : c < 0 ∨ 255 < c) :
    admitCall (.receiveFromDevice c) = .refuse (.notAByte c) := by
  simp only [admitCall, byteOf_eq_none.mpr hc]

/-- A call that is refused leaves no next state. -/
theorem step_present_call_of_refuse {c : Call} {why : Refusal} (h : admitCall c = .refuse why) (s : State) :
    step (present (.call c) s) = .refused why :=
  step_present_of_refuse (r := .call c) h s

/-- A call that is admitted as a form is carried out as the mnemonic of that form (R43). -/
theorem step_present_call_of_txn {c : Call} {x : Txn} (h : admitCall c = admitTxn x) (s : State) :
    step (present (.call c) s) = exec x.toInstr s :=
  step_present_of_run (r := .call c) h s

theorem step_present_call_peek (a : Int) (s : State) : step (present (.call (.peek a)) s) =
    if a < 0 then .refused (.notAnIndex a) else exec (peekInstr a.toNat) s := by
  by_cases ha : a < 0
  · rw [if_pos ha]
    exact step_present_call_of_refuse (admitCall_peek_of_neg ha) s
  · rw [if_neg ha]
    obtain ⟨n, rfl⟩ := exists_index_of_not_neg ha
    exact step_present_call_of_txn (admitCall_peek n) s

theorem step_present_call_poke (a v : Int) (s : State) : step (present (.call (.poke a v)) s) =
    if a < 0 then .refused (.notAnIndex a) else if v < 0 ∨ 255 < v then .refused (.notAByte v)
    else exec (pokeInstr a.toNat (BitVec.ofInt 8 v)) s := by
  by_cases ha : a < 0
  · rw [if_pos ha]
    exact step_present_call_of_refuse (admitCall_poke_of_neg ha v) s
  · rw [if_neg ha]
    obtain ⟨n, rfl⟩ := exists_index_of_not_neg ha
    by_cases hv : v < 0 ∨ 255 < v
    · rw [if_pos hv]
      exact step_present_call_of_refuse (admitCall_poke_of_not_byte n hv) s
    · rw [if_neg hv]
      obtain ⟨b, rfl⟩ := exists_byte_of_in_range hv
      rw [ofInt_byte_value]
      exact step_present_call_of_txn (admitCall_poke n b) s

theorem step_present_call_receiveFromDevice (c : Int) (s : State) : step (present (.call (.receiveFromDevice c)) s) =
    if c < 0 ∨ 255 < c then .refused (.notAByte c) else exec (.rx (BitVec.ofInt 8 c)) s := by
  by_cases hc : c < 0 ∨ 255 < c
  · rw [if_pos hc]
    exact step_present_call_of_refuse (admitCall_receiveFromDevice_of_not_byte hc) s
  · rw [if_neg hc]
    obtain ⟨b, rfl⟩ := exists_byte_of_in_range hc
    rw [ofInt_byte_value]
    exact step_present_call_of_txn (admitCall_receiveFromDevice b) s

/-- Settles O37: for each call, the operand that is outside its type, or the form it is. -/
theorem callsOutsideTheirTypesAreRefused : Obligations.CallsOutsideTheirTypesAreRefused :=
  ⟨step_present_call_peek, step_present_call_poke, step_present_call_receiveFromDevice⟩

end Sys2Proof.Machine

/-! PROOF. Construction, and the hazards of the block's one buffer and one registration: a run without a sink only drops, a pending
0 reads as an Empty buffer does, and the polling loop waits for the device driver (70_reset_and_hazards.md R81, R85, R88, R94). -/

namespace Sys2Proof.Machine

/-! ## Construction -/

/-- Settles O31: no request waits at construction, and a record is a prefix of itself. -/
theorem constructionIsAdmitted : Obligations.ConstructionIsAdmitted :=
  ⟨rfl, List.prefix_rfl, List.prefix_rfl⟩

/-! ## A pending 0 -/

/-- Settles O19: RD_DATA takes an Empty buffer for a pending 0, and RD_STATUS answers by presence (D5). -/
theorem emptyAndPendingZeroReadAlike : Obligations.EmptyAndPendingZeroReadAlike := by
  intro s
  have hempty := exec_rdData { s with pending := none }
  have hzero := exec_rdData { s with pending := some 0x00#8 }
  exact ⟨hempty.trans hzero.symm, hempty, exec_rdStatus _, exec_rdStatus _⟩

/-! ## Runs without a sink -/

/-- Only SINK_ATTACH registers a sink (R13). -/
theorem txnSink_false_of_ne_sinkAttach {i : Instr} (hi : i ≠ .sinkAttach) : txnSink false i.toTxn = false := by
  cases i with
  | sinkAttach => exact absurd rfl hi
  | _ => rfl

/-- One transaction other than SINK_ATTACH, without a sink: still no sink, and the byte of a WR_DATA dropped (R64). -/
theorem outboundView_applyTxn_of_unregistered {i : Instr} (hwf : i.wf = true) (hi : i ≠ .sinkAttach) {s : State}
    (hs : s.sink = false) :
    (applyTxn i.toTxn s).outboundView = (false, s.trace ++ (dataWriteByte i).toList.map Event.drop) := by
  rw [State.outboundView, applyTxn_sink, applyTxn_trace, hs, txnSink_false_of_ne_sinkAttach hi, txnEvents_of_wf hwf]
  rfl

/-- A run without SINK_ATTACH, without a sink at its start (R85). -/
theorem outboundView_applyTxns_of_unregistered {js : List Instr} (hjs : ∀ i ∈ js, i.wf = true ∧ i ≠ .sinkAttach)
    {s : State} (hs : s.sink = false) :
    (applyTxns (js.map Instr.toTxn) s).outboundView =
      (false, s.trace ++ (js.filterMap dataWriteByte).map Event.drop) := by
  induction js generalizing s with
  | nil => simp [applyTxns, State.outboundView, hs]
  | cons i js ih =>
    obtain ⟨⟨hwf, hi⟩, hjs⟩ := List.forall_mem_cons.mp hjs
    obtain ⟨hsink, htrace⟩ := Prod.mk.inj (outboundView_applyTxn_of_unregistered hwf hi hs)
    rw [List.map_cons, applyTxns, ih hjs hsink, htrace, List.append_assoc, ← List.map_append]
    cases hbyte : dataWriteByte i with
    | none => rw [List.filterMap_cons_none hbyte]; rfl
    | some v => rw [List.filterMap_cons_some hbyte]; rfl

/-- Settles O14: by induction on the run, in which every transaction finds no sink. -/
theorem unregisteredRunOnlyDrops : Obligations.UnregisteredRunOnlyDrops := by
  intro js s t hjs hs h
  rw [execAll_eq] at h
  obtain rfl := Host.Outcome.next.inj h
  exact Prod.mk.inj (outboundView_applyTxns_of_unregistered hjs hs)

/-! ## The polling loop -/

/-- After a form other than the read of Data the buffer is Full if it was, or if the form pushes a byte (R11). -/
theorem isFull_applyTxn {x : Txn} (hx : x ≠ .peek 0) (s : State) :
    (applyTxn x s).isFull = true ↔ s.isFull = true ∨ ∃ b, x = .rx b := by
  rw [State.isFull, State.isFull, applyTxn_pending]
  cases x with
  | peek a =>
    have ha : a ≠ 0 := fun h => hx (congrArg Txn.peek h)
    simp [txnPending, decodeIndex_eq_data, ha]
  | _ => simp [txnPending]

/-- After forms that do not read Data the buffer is Full if it was, or if a byte is pushed among them (R12). -/
theorem isFull_applyTxns {xs : List Txn} (hxs : Txn.peek 0 ∉ xs) (s : State) :
    (applyTxns xs s).isFull = true ↔ s.isFull = true ∨ ∃ b, Txn.rx b ∈ xs := by
  induction xs generalizing s with
  | nil => simp [applyTxns]
  | cons x xs ih =>
    rw [List.mem_cons, not_or] at hxs
    obtain ⟨hx, hxs⟩ := hxs
    rw [applyTxns, ih hxs, isFull_applyTxn (Ne.symm hx), or_assoc, ← exists_or]
    simp only [List.mem_cons, eq_comm]

/-- From any state, with nobody else reading Data, the loop ends iff the buffer is Full already or a byte is pushed (R94). -/
theorem pollLoop_isSome_iff {schedule : List (List Txn)} (h : ∀ now ∈ schedule, Txn.peek 0 ∉ now) (s : State) :
    (pollLoop schedule s).isSome = true ↔
      s.isFull = true ∨ ∃ now ∈ schedule, ∃ b : Byte, Txn.rx b ∈ now := by
  induction schedule generalizing s with
  | nil =>
    rw [pollLoop_eq, State.isFull]
    cases s.pending <;> simp
  | cons now later ih =>
    obtain ⟨hnow, hlater⟩ := List.forall_mem_cons.mp h
    cases hp : s.pending with
    | some b => simp [pollLoop_of_full hp, State.isFull, hp]
    | none =>
      have hround : pollLoop (now :: later) s = pollLoop later (applyTxns now (s.returnByte 0x00#8)) := by
        rw [pollLoop_eq, if_pos hp]
      rw [hround, ih hlater, isFull_applyTxns hnow]
      simp [State.isFull, hp]

/-- Settles O46: an Empty buffer is not Full, so the loop needs a byte pushed. -/
theorem pollLoopEndsIffDevicePushes : Obligations.PollLoopEndsIffDevicePushes := by
  intro schedule s hs h
  have hfull : ¬ s.isFull = true := by
    rw [State.isFull, Option.isNone_iff_eq_none.mp hs]
    decide
  rw [pollLoop_isSome_iff h, or_iff_right hfull]

end Sys2Proof.Machine

/-! PROOF. The decoding vectors: the words that spell a transaction are the encoder's, and each of the others has a reason in R44's
list (95_test_vectors.md section 2.5). -/

namespace Sys2Proof

/-- A word the encoder gives to a transaction decodes to it (R43, R46). -/
theorem decodeWord_of_encode {w : TxnWord} {i : Instr} (hi : i.encodable = true) (hw : encode i = w) :
    decodeWord w = .instr i :=
  hw ▸ decodeWord_encode hi

/-- Settles O45: seven words of the encoder, and seven with a kind, `addr` or `data` field that R44 reserves. -/
theorem sampleWordsDecodeAsListed : Obligations.SampleWordsDecodeAsListed := by
  refine ⟨decodeWord_of_encode rfl rfl, decodeWord_of_encode rfl rfl, decodeWord_of_encode rfl rfl, decodeWord_of_encode rfl rfl,
    decodeWord_of_encode rfl rfl, decodeWord_of_encode rfl rfl, decodeWord_of_encode rfl rfl,
    ?kindZero, ?peekData, ?rxAddr, ?sinkData, ?sinkAddr, ?kindFive, ?kindFifteen⟩
  all_goals rw [decodeWord_toOption_eq_none]
  case kindZero => exact .inl rfl
  case kindFive | kindFifteen => exact .inr (.inl (by decide))
  case peekData => exact .inr (.inr (.inl ⟨rfl, by decide⟩))
  case rxAddr => exact .inr (.inr (.inr (.inl ⟨rfl, by decide⟩)))
  case sinkAddr => exact .inr (.inr (.inr (.inr ⟨rfl, .inl (by decide)⟩)))
  case sinkData => exact .inr (.inr (.inr (.inr ⟨rfl, .inr (by decide)⟩)))

end Sys2Proof
